-- ==== Sys2Proof/Word.lean ====
section
/-! DEFINITION. The words of the block: bytes, the 6-bit values, the 16-bit characters (spec 00_scope.md R7, R8, R10; 10_state.md R26). -/

namespace Sys2Proof

/-- A byte of the codeword buffer or of a byte segment, bit 7 its most significant bit (R7). -/
abbrev Byte := BitVec 8

/-- A 6-bit value: one of the three values of a pair, or one Sixbit value (R26). -/
abbrev Val := BitVec 6

/-- A character of TEXT or TRL: a code point of CHAR_W = 16 bits (R6, R10; decision D5). -/
abbrev Char16 := BitVec 16

end Sys2Proof
end

