-- ==== Sys2Proof/Machine/Params.lean ====
section
/-! DEFINITION. The parameters that have a value for this hardware (00_scope.md R6; 93_implementation_defined.md section 2): the
rounding and realignment choices, and the constant tables and strings. -/

namespace Sys2Proof.Machine

/-- The two readings of CWPOS_ROUND (R6; 92_eei_decisions.md D11). -/
inductive Rounding where
  | up
  | down
  deriving DecidableEq, Repr

/-- SIXBIT_REALIGN = 0 for this hardware: a Sixbit unlatch discards nothing (R6, D12). -/
def sixbitRealign : Bool := false

/-- CWPOS_ROUND = up for this hardware (R6, D11). -/
def cwposRound : Rounding := .up

/-- SHIFT2_TABLE, 27 entries (30_encoding.md R99). PRESUMED: the spec takes it from general knowledge (G2). -/
def shift2Table : List Nat :=
  [33, 34, 35, 36, 37, 38, 39, 40, 41, 42, 43, 44, 45, 46, 47,
   58, 59, 60, 61, 62, 63, 64, 91, 92, 93, 94, 95]

/-- TEXT_SHIFT3_TABLE, 32 entries (30_encoding.md R100). PRESUMED: the spec takes it from general knowledge (G3). -/
def textShift3Table : List Nat :=
  [96, 65, 66, 67, 68, 69, 70, 71, 72, 73, 74, 75, 76, 77, 78, 79,
   80, 81, 82, 83, 84, 85, 86, 87, 88, 89, 90, 123, 124, 125, 126, 127]

/-- MACRO05_HEADER (30_encoding.md R101). PRESUMED: general knowledge of the spec (G4). -/
def macro05Header : List Nat := [91, 41, 62, 30, 48, 53, 29]

/-- MACRO06_HEADER (30_encoding.md R101). PRESUMED: general knowledge of the spec (G4). -/
def macro06Header : List Nat := [91, 41, 62, 30, 48, 54, 29]

/-- MACRO_TRAILER (30_encoding.md R101). PRESUMED: general knowledge of the spec (G4). -/
def macroTrailer : List Nat := [30, 4]

/-- The Latin-1 mapping of RawBytes text: byte `b` becomes character `b` (46_rawbytes.md R299). It is wired in, which is what
LATIN1_AVAILABLE = true says (R6, D14). -/
def latin1 (b : Byte) : Char16 := b.setWidth 16

end Sys2Proof.Machine
end

