-- ==== Sys2Proof/Syntax.lean ====
section
/-! DEFINITION. The units of the codeword stream, one constructor for each row of spec/opcode_table.json, and the modes and shift states that
select the rows (30_encoding.md R90 to R109; 10_state.md R23, R24). -/

namespace Sys2Proof

/-- The encodation modes (10_state.md R23). -/
inductive Mode where
  | ascii
  | c40
  | text
  | x12
  | edf
  | b256
  | pad
  deriving DecidableEq, Repr

/-- The number the spec gives a mode for its read-out (R23; D4). -/
def Mode.code : Mode → BitVec 3
  | .ascii => 0
  | .c40 => 1
  | .text => 2
  | .x12 => 3
  | .edf => 4
  | .b256 => 5
  | .pad => 6

/-- The two modes with a shift machine: the `m` of `Interp40(m, c)` (43_base40.md R206). -/
inductive Base40 where
  | c40
  | text
  deriving DecidableEq, Repr

/-- The triple modes: the `m` of `TripleSegment(m)` (43_base40.md R200; 00_scope.md R11). -/
inductive TripleMode where
  | c40
  | text
  | x12
  deriving DecidableEq, Repr

/-- The value of MODE under which `TripleSegment(m)` runs. -/
def TripleMode.mode : TripleMode → Mode
  | .c40 => .c40
  | .text => .text
  | .x12 => .x12

/-- The four shift states (10_state.md R24). -/
inductive Shift where
  | s0
  | s1
  | s2
  | s3
  deriving DecidableEq, Repr

/-- The value 0 to 3 of a shift state (R24). -/
def Shift.code : Shift → BitVec 2
  | .s0 => 0
  | .s1 => 1
  | .s2 => 2
  | .s3 => 3

/-- The unpacked triple `C[0]`, `C[1]`, `C[2]` (10_state.md R26). -/
structure Triple where
  c1 : Val
  c2 : Val
  c3 : Val
  deriving DecidableEq, Repr

/-- A unit of the stream with its operands. The operand of each constructor is the one its rule names. -/
inductive Instr where
  /-- `A.INV0`: ASCII codeword 0 (R162). -/
  | aInv0
  /-- `A.LIT ch`: ASCII codewords 1 to 128, `ch = cw - 1` (R161). -/
  | aLit (ch : BitVec 7)
  /-- `A.PAD`: codeword 129 (R163). -/
  | aPad
  /-- `A.DIG2 dd`: codewords 130 to 229, `dd = cw - 130` (R164). -/
  | aDig2 (dd : BitVec 7)
  /-- `A.LC40`: codeword 230 (R165). -/
  | aLc40
  /-- `A.LB256`: codeword 231 (R166). -/
  | aLb256
  /-- `A.FNC1`: codeword 232 (R167). -/
  | aFnc1
  /-- `A.SAPP`: codeword 233 (R168). -/
  | aSapp
  /-- `A.RDRP`: codeword 234 (R169). -/
  | aRdrp
  /-- `A.USH`: codeword 235 (R170). -/
  | aUsh
  /-- `A.M05`: codeword 236 (R171). -/
  | aM05
  /-- `A.M06`: codeword 237 (R172). -/
  | aM06
  /-- `A.LX12`: codeword 238 (R173). -/
  | aLx12
  /-- `A.LTXT`: codeword 239 (R174). -/
  | aLtxt
  /-- `A.LEDF`: codeword 240 (R175). -/
  | aLedf
  /-- `A.ECI`: codeword 241 (R176). -/
  | aEci
  /-- `A.INV242 cw`: codewords 242 to 253 (R177). -/
  | aInv242 (cw : Byte)
  /-- `A.END254`: codeword 254 (R178). -/
  | aEnd254
  /-- `A.INV255`: codeword 255 (R179). -/
  | aInv255
  /-- `C.UNL`: 254 where a C40 pair begins (R202). -/
  | cUnl
  /-- `T.UNL`: 254 where a TEXT pair begins (R203). -/
  | tUnl
  /-- `X.UNL`: 254 where an X12 pair begins (R251). -/
  | xUnl
  /-- `C.PAIR b1, b2` (R204). -/
  | cPair (b1 b2 : Byte)
  /-- `T.PAIR b1, b2` (R205). -/
  | tPair (b1 b2 : Byte)
  /-- `X.PAIR b1, b2` (R252). -/
  | xPair (b1 b2 : Byte)
  /-- `C.SH c`: C40, shift state 0, values 0 to 2 (R210). -/
  | cSh (c : Val)
  /-- `C.BAS c`: C40, shift state 0, values 3 to 39 (R211). -/
  | cBas (c : Val)
  /-- `C.BASX`: C40, shift state 0, value 40 (R212). -/
  | cBasx
  /-- `C.S1 c`: C40, shift state 1, values 0 to 40 (R213). -/
  | cS1 (c : Val)
  /-- `C.S2 c`: C40, shift state 2, values 0 to 26 (R214). -/
  | cS2 (c : Val)
  /-- `C.S2F`: C40, shift state 2, value 27 (R215). -/
  | cS2f
  /-- `C.S2U`: C40, shift state 2, value 30 (R216). -/
  | cS2u
  /-- `C.S2X c`: C40, shift state 2, values 28, 29, 31 to 40 (R217). -/
  | cS2x (c : Val)
  /-- `C.S3 c`: C40, shift state 3, values 0 to 40 (R218). -/
  | cS3 (c : Val)
  /-- `T.SH c`: TEXT, shift state 0, values 0 to 2 (R220). -/
  | tSh (c : Val)
  /-- `T.BAS c`: TEXT, shift state 0, values 3 to 39 (R221). -/
  | tBas (c : Val)
  /-- `T.BASX`: TEXT, shift state 0, value 40 (R222). -/
  | tBasx
  /-- `T.S1 c`: TEXT, shift state 1, values 0 to 40 (R223). -/
  | tS1 (c : Val)
  /-- `T.S2 c`: TEXT, shift state 2, values 0 to 26 (R224). -/
  | tS2 (c : Val)
  /-- `T.S2F`: TEXT, shift state 2, value 27 (R225). -/
  | tS2f
  /-- `T.S2U`: TEXT, shift state 2, value 30 (R226). -/
  | tS2u
  /-- `T.S2X c`: TEXT, shift state 2, values 28, 29, 31 to 40 (R227). -/
  | tS2x (c : Val)
  /-- `T.S3 c`: TEXT, shift state 3, values 0 to 31 (R228). -/
  | tS3 (c : Val)
  /-- `T.S3X c`: TEXT, shift state 3, values 32 to 40 (R229). -/
  | tS3x (c : Val)
  /-- `X.CR`: X12 value 0 (R253). -/
  | xCr
  /-- `X.STAR`: X12 value 1 (R254). -/
  | xStar
  /-- `X.GT`: X12 value 2 (R255). -/
  | xGt
  /-- `X.SP`: X12 value 3 (R256). -/
  | xSp
  /-- `X.DIG c`: X12 values 4 to 13 (R257). -/
  | xDig (c : Val)
  /-- `X.LET c`: X12 values 14 to 39 (R258). -/
  | xLet (c : Val)
  /-- `X.INV`: X12 value 40 (R259). -/
  | xInv
  /-- `E.UNL`: Sixbit value 31 (R271). -/
  | eUnl
  /-- `E.LO e`: Sixbit values 0 to 30 (R272). -/
  | eLo (e : Val)
  /-- `E.HI e`: Sixbit values 32 to 63 (R273). -/
  | eHi (e : Val)
  /-- `B.LEN0`: derandomized header byte 0 (R294). -/
  | bLen0
  /-- `B.LEN1 d1`: derandomized header byte 1 to 249 (R295). -/
  | bLen1 (d1 : Byte)
  /-- `B.LEN2 d1, d2`: derandomized header bytes, `d1` 250 to 255 (R296). -/
  | bLen2 (d1 d2 : Byte)
  /-- `B.DATA b`: the derandomized data byte (R297). -/
  | bData (b : Byte)
  deriving DecidableEq, Repr

end Sys2Proof
end

