-- ==== Sys2Proof/Machine/Operands.lean ====
section
/-! DEFINITION. Operand assembly and the value maps as arithmetic: pairs, digits, the character sets, the RawBytes lengths, the derandomizer
(30_encoding.md R91 to R104; 43_base40.md R201; 46_rawbytes.md R290 to R296). Nothing here reads or writes State. -/

namespace Sys2Proof.Machine

/-! ## Pairs of the triple modes -/

/-- `w = (b1 << 8) + b2`, `b1` the more significant (20_memory.md R62; 40_bitcursor.md R125). -/
def pairWord (b1 b2 : Byte) : Nat := b1.toNat * 256 + b2.toNat

/-- The triple of `V = w - 1` (43_base40.md R201). -/
def tripleOf (v : Nat) : Triple where
  c1 := BitVec.ofNat 6 (v / 1600)
  c2 := BitVec.ofNat 6 (v % 1600 / 40)
  c3 := BitVec.ofNat 6 (v % 1600 % 40)

/-- `Unpack3(b1, b2)`, with `none` for the pair of zeros, which raises `TRIPLE_ZERO` (43_base40.md R201; D10). -/
def unpack3 (b1 b2 : Byte) : Option Triple :=
  if pairWord b1 b2 = 0 then none else some (tripleOf (pairWord b1 b2 - 1))

/-- The packing `1600*c1 + 40*c2 + c3 + 1` (30_encoding.md R92, R108). -/
def pack3 (t : Triple) : Nat := 1600 * t.c1.toNat + 40 * t.c2.toNat + t.c3.toNat + 1

/-- The two bytes a `PAIR` line expands to (30_encoding.md R108). -/
def pairBytes (t : Triple) : Byte × Byte :=
  (BitVec.ofNat 8 (pack3 t / 256), BitVec.ofNat 8 (pack3 t % 256))

/-! ## Characters -/

/-- FNC1 is rendered as character 29 (42_ascii.md R167; 43_base40.md R215). -/
def fnc1Char : Nat := 29

/-- The two characters of `A.DIG2` (42_ascii.md R164). -/
def digitChars (dd : Nat) : List Nat := [48 + dd / 10, 48 + dd % 10]

/-- The basic set: space, digits, then letters at `letters` above the value (30_encoding.md R97; 43_base40.md R211, R221). -/
def basicChar (letters c : Nat) : Nat :=
  if c = 3 then 32 else if c ≤ 13 then c + 44 else c + letters

/-- Letters of the C40 and X12 sets: `c + 51` (R97, R102). -/
def upperLetters : Nat := 51

/-- Letters of the TEXT basic set: `c + 83` (R97). -/
def lowerLetters : Nat := 83

/-- `E | 0x40` (45_sixbit.md R272). -/
def sixbitLow (e : Val) : Nat := e.toNat ||| 0x40

/-- `E` unchanged (45_sixbit.md R273). -/
def sixbitHigh (e : Val) : Nat := e.toNat

/-- The unlatch value `0b011111` (30_encoding.md R103). -/
def sixbitUnlatchValue : Nat := 31

/-- Bit 5 of a Sixbit value, mask 0x20 (R94, R103). -/
def sixbitBit5 (e : Nat) : Bool := e &&& 0x20 ≠ 0

/-! ## RawBytes -/

/-- `PseudoRandom(p) = ((149 * p) mod 255) + 1` (46_rawbytes.md R291). -/
def pseudoRandom (p : Nat) : Nat := 149 * p % 255 + 1

/-- `Derandomize(w, p)`: `t = w - PseudoRandom(p)`, plus 256 where `t` is negative (46_rawbytes.md R290). -/
def derandomize (w : Byte) (p : Nat) : Byte :=
  let t : Int := (w.toNat : Int) - (pseudoRandom p : Int)
  if 0 ≤ t then BitVec.ofInt 8 t else BitVec.ofInt 8 (t + 256)

/-- `RAND(x, p)`, the inverse (46_rawbytes.md R292; 30_encoding.md R108). -/
def randomize (x : Byte) (p : Nat) : Byte := BitVec.ofNat 8 ((x.toNat + pseudoRandom p) % 256)

/-- The two-byte length `250 * (D1 - 249) + D2`, an integer so that a negative one could be seen (46_rawbytes.md R296, R298). -/
def longLength (d1 d2 : Byte) : Int := 250 * ((d1.toNat : Int) - 249) + (d2.toNat : Int)

/-! ## The Sixbit group -/

/-- The bytes of the values of a group: the `6k` bits most significant first, then zero bits up to a whole byte
(30_encoding.md R94, R108; 20_memory.md R62). -/
def groupBytes (es : List Val) : List Byte :=
  let bits := 6 * es.length
  let nb := (bits + 7) / 8
  let g := es.foldl (fun a e => a * 64 + e.toNat) 0 * 2 ^ (8 * nb - bits)
  (List.range nb).map fun i => BitVec.ofNat 8 (g / 256 ^ (nb - 1 - i) % 256)

end Sys2Proof.Machine
end

