-- ==== Sys2Proof/Machine/State.lean ====
section
/-! DEFINITION. The state of the block (10_state.md R20: every element, and nothing of the spec's is left out), its outcomes, and the state after
power-on reset (R35; 70_reset_and_hazards.md R380). -/

namespace Sys2Proof.Machine

/-- RUN (10_state.md R30). -/
inductive RunStatus where
  | idle
  | busy
  | done
  | error
  deriving DecidableEq, Repr

/-- The number of a run status (R30). -/
def RunStatus.code : RunStatus → BitVec 2
  | .idle => 0
  | .busy => 1
  | .done => 2
  | .error => 3

/-- ERR.kind (10_state.md R31; 60_exceptions.md R340). -/
inductive ErrKind where
  | none
  | format
  | encodingCapability
  deriving DecidableEq, Repr

/-- The number of an error kind (R31). -/
def ErrKind.code : ErrKind → BitVec 2
  | .none => 0
  | .format => 1
  | .encodingCapability => 2

/-- The eleven causes of a Format Error (60_exceptions.md R341). -/
inductive Cause where
  | asciiZero
  | asciiReserved
  | ascii254
  | ascii255
  | b40Basic
  | b40Shift2
  | textShift3
  | x12Value
  | tripleZero
  | b256Length
  | outOfData
  deriving DecidableEq, Repr

/-- The code of a cause (R341). -/
def Cause.code : Cause → BitVec 4
  | .asciiZero => 1
  | .asciiReserved => 2
  | .ascii254 => 3
  | .ascii255 => 4
  | .b40Basic => 5
  | .b40Shift2 => 6
  | .textShift3 => 7
  | .x12Value => 8
  | .tripleZero => 9
  | .b256Length => 10
  | .outOfData => 11

/-- ERR (10_state.md R31). -/
structure ErrReg where
  kind : ErrKind
  cause : Option Cause
  deriving DecidableEq, Repr

/-- ERR.cause as a 4-bit number, 0 where there is no cause (R31). -/
def ErrReg.causeCode (e : ErrReg) : BitVec 4 :=
  match e.cause with
  | none => 0
  | some c => c.code

/-- `(NONE, 0)`. -/
def ErrReg.clear : ErrReg := ⟨.none, none⟩

/-- SA: the constant "absent" (10_state.md R32; 47_result.md R324). -/
inductive StructuredAppend where
  | absent
  deriving DecidableEq, Repr

/-- Which procedure is active (41_dispatch.md R148); log 2. -/
inductive Phase where
  /-- At the loop test of `Decode` (R140). -/
  | loop
  /-- Inside `AsciiSegment` (42_ascii.md R160). -/
  | ascii
  /-- Inside `TripleSegment(m)`, before a pair (43_base40.md R200). -/
  | triple (m : TripleMode)
  /-- Inside `SixbitSegment`, `place` values of the group already read (45_sixbit.md R270). -/
  | sixbit (place : Fin 4)
  /-- Inside `RawBytesSegment`, before the header (46_rawbytes.md R293). -/
  | rawHeader
  /-- Inside `RawBytesSegment`, in the counted run (R293). -/
  | rawData
  deriving DecidableEq, Repr

/-- The cells of the codeword buffer: (index, byte) pairs, indices strictly rising. An index that is not listed has no value (log 4), so
no listed cell can equal what an unlisted index reads as. -/
abbrev Memory := List Host.Cell

/-- The state of one instance of the block. -/
structure State where
  /-- CW, the codeword buffer (R21). -/
  cw : Memory
  /-- N, its length in bytes (R21). -/
  n : Nat
  /-- Whether the host has supplied a buffer since power-on; the model's own flag (log 3). -/
  supplied : Bool
  /-- POS, the bit cursor (R22). -/
  pos : Nat
  /-- MODE (R23). -/
  mode : Mode
  /-- The active procedure (R148); log 2. -/
  phase : Phase
  /-- SHIFT (R24). -/
  shift : Shift
  /-- USH (R25). -/
  ush : Bool
  /-- B1 (R26). -/
  b1 : Byte
  /-- B2 (R26). -/
  b2 : Byte
  /-- V (R26). -/
  v : BitVec 16
  /-- C[0], C[1], C[2] (R26). -/
  c : Triple
  /-- E (R26). -/
  e : Val
  /-- D1 (R26). -/
  d1 : Byte
  /-- D2 (R26). -/
  d2 : Byte
  /-- CNT (R26). -/
  cnt : Nat
  /-- P (R26). -/
  p : Nat
  /-- SEGBUF (R26). -/
  segbuf : List Byte
  /-- TEXT (R27). -/
  text : List Char16
  /-- TRL (R28). -/
  trl : List Char16
  /-- SEGS (R29). -/
  segs : List (List Byte)
  /-- RUN (R30). -/
  run : RunStatus
  /-- ERR (R31). -/
  err : ErrReg
  /-- SA (R32). -/
  sa : StructuredAppend
  /-- RES.raw (47_result.md R320, R323): the bytes of CW at completion, kept until the next launch; the model's own copy (log 18). -/
  raw : List Byte
  deriving DecidableEq, Repr

/-- Power-on reset: RUN = IDLE and ERR = (NONE, 0) are the spec's (R35, R380). Every other element is "unspecified" there; the values
here are the model's choice (log 1, UNSAFE): the launch value where launch sets one, else zero or empty. -/
def State.reset : State where
  cw := []
  n := 0
  supplied := false
  pos := 0
  mode := .ascii
  phase := .loop
  shift := .s0
  ush := false
  b1 := 0
  b2 := 0
  v := 0
  c := ⟨0, 0, 0⟩
  e := 0
  d1 := 0
  d2 := 0
  cnt := 0
  p := 0
  segbuf := []
  text := []
  trl := []
  segs := []
  run := .idle
  err := .clear
  sa := .absent
  raw := []

/-- Where the model stops without a next state. -/
inductive Fault where
  /-- `MemRead` met an index below N at which no byte is listed. Raised by `readBits`. Safe: the hardware goes on with some byte; no state
  that a supply can produce has such an index (Safety.lean, log 4). -/
  | cwHole
  deriving DecidableEq, Repr

/-- What the model declines by name. -/
inductive Refusal where
  /-- An instruction that has no meaning yet. Raised by `exec` only; no arm raises it. Safe. -/
  | notModelled (mnemonic : String)
  /-- The decoder rejected the value of a unit. Raised by the fetch; it cannot happen, since the maps are total (30_encoding.md
  R109). Safe. -/
  | undecodedUnit
  /-- The host supplied or launched while RUN = BUSY. Raised by the host actions (70_reset_and_hazards.md R385, R387; U3, U6:
  refuse). Safe. -/
  | hostWhileBusy
  /-- The host supplied more than N_MAX bytes. Raised by the host action `supply` (00_scope.md R6; U2: refuse). Safe. -/
  | bufferTooLarge
  /-- The host launched before any supply. Raised by the host action `launch` (70_reset_and_hazards.md R380). Safe. -/
  | noBuffer
  deriving DecidableEq, Repr

end Sys2Proof.Machine
end

