-- ==== Sys2Proof/Machine/Ops.lean ====
section
/-! DEFINITION. The named operations: the codeword buffer and its bit view (20_memory.md R61), the bit cursor (40_bitcursor.md R120 to R126), the
writes of the accumulators (20_memory.md R72), the change of mode (41_dispatch.md R145), and taking the Format Error
(60_exceptions.md R356), in one place. -/

namespace Sys2Proof.Machine

/-! ## The codeword buffer -/

/-- The byte at index `i`, or none where no byte is listed (log 4). -/
def Memory.read : Memory → Nat → Option Byte
  | [], _ => none
  | (a, b) :: m, i => if i = a then some b else Memory.read m i

/-- The buffer that holds the bytes at the indices from `k` on. -/
def Memory.ofBytesFrom : Nat → List Byte → Memory
  | _, [] => []
  | k, b :: bs => (k, b) :: Memory.ofBytesFrom (k + 1) bs

/-- The buffer the host supplies: `CW[0] .. CW[N-1]` (00_scope.md R7). -/
def Memory.ofBytes (bs : List Byte) : Memory := Memory.ofBytesFrom 0 bs

/-- The bytes listed, in index order. -/
def Memory.bytes (m : Memory) : List Byte := m.map Prod.snd

/-- The canonical form: indices strictly rising. (What an unlisted index reads as is no value, so no entry can equal it.) -/
def Memory.wf : Memory → Bool
  | [] => true
  | [_] => true
  | (a, _) :: (b, y) :: m => decide (a < b) && Memory.wf ((b, y) :: m)

/-- Stream bit `s[a]`, `s[8*i + j] = bit (7-j) of CW[i]` (00_scope.md R7). -/
def streamBit (m : Memory) (a : Nat) : Option Bool :=
  (m.read (a / 8)).map fun b => b.getLsbD (7 - a % 8)

/-- `MemRead(a, n)`: the `n` stream bits from bit address `a`, the first the most significant (20_memory.md R61). -/
def memRead (m : Memory) (a : Nat) : Nat → Option Nat
  | 0 => some 0
  | n + 1 =>
    match memRead m a n, streamBit m (a + n) with
    | some hi, some b => some (2 * hi + b.toNat)
    | _, _ => none

/-! ## Procedures: they go on, raise a Format Error, or stop -/

/-- Why a procedure does not return to its caller. -/
inductive Stop where
  /-- `raise FormatError(cause)`, with the state at the moment of the raise (60_exceptions.md R368). -/
  | raised (c : Cause) (s : State)
  /-- The model stops. -/
  | faulted (f : Fault)
  /-- The model declines. -/
  | refused (r : Refusal)

/-- A procedure of the spec: "every procedure of the spec has type State -> Except Error State" (60_exceptions.md R368). -/
abbrev Proc := Except Stop State

/-- The abort (trap entry): ERR and RUN are written, "and nothing else" (60_exceptions.md R356; log 10). -/
def State.abort (s : State) (c : Cause) : State :=
  { s with err := ⟨.format, some c⟩, run := .error }

/-- `raise FormatError(c)` in state `s`. -/
def raise {α : Type} (c : Cause) (s : State) : Except Stop α := .error (.raised c s)

/-- What a stopped procedure means for the machine: a raise takes the abort, which is a next state. -/
def Stop.outcome : Stop → Host.Outcome State Fault Refusal
  | .raised c s => .next (s.abort c)
  | .faulted f => .fault f
  | .refused r => .refused r

/-- The outcome of a procedure. -/
def settle : Proc → Host.Outcome State Fault Refusal
  | .ok s => .next s
  | .error st => st.outcome

/-! ## The bit cursor -/

/-- `Available() = 8*N - POS` (40_bitcursor.md R121). -/
def available (s : State) : Nat := 8 * s.n - s.pos

/-- `CodewordPosition()` for either reading of CWPOS_ROUND (40_bitcursor.md R122; D11). -/
def codewordPositionAt (r : Rounding) (pos : Nat) : Nat :=
  match r with
  | .up => (pos + 7) / 8 + 1
  | .down => pos / 8 + 1

/-- `CodewordPosition()` of this hardware (R122). -/
def codewordPosition (s : State) : Nat := codewordPositionAt cwposRound s.pos

/-- `ReadBits(n)`: the bound is tested before any bit is taken (40_bitcursor.md R120; 20_memory.md R65). -/
def readBits (n : Nat) (s : State) : Except Stop (Nat × State) :=
  if available s < n then raise .outOfData s
  else
    match memRead s.cw s.pos n with
    | some r => .ok (r, { s with pos := s.pos + n })
    | none => .error (.faulted .cwHole)

/-- `Derandomize(ReadBits(8), P); P <- P + 1` (46_rawbytes.md R293, R301). -/
def readRaw (s : State) : Except Stop (Byte × State) := do
  let (w, s) ← readBits 8 s
  .ok (derandomize (BitVec.ofNat 8 w) s.p, { s with p := s.p + 1 })

/-- `Realign()`: discard to the byte boundary (40_bitcursor.md R126). -/
def realign (s : State) : Proc :=
  if s.pos % 8 = 0 then .ok s
  else do
    let (_, s) ← readBits (8 - s.pos % 8) s
    .ok s

/-! ## The writes -/

/-- `Emit(v)`: append one character to TEXT (20_memory.md R72). -/
def emit (v : Nat) (s : State) : State := { s with text := s.text ++ [BitVec.ofNat 16 v] }

/-- `Emit` of each character of a list, in order. -/
def emitAll (vs : List Nat) (s : State) : State := { s with text := s.text ++ vs.map (BitVec.ofNat 16) }

/-- `Prepend(TRL, L)` (R72). -/
def prependTrailer (vs : List Nat) (s : State) : State := { s with trl := vs.map (BitVec.ofNat 16) ++ s.trl }

/-- `Append(SEGS, SEGBUF)`, then the segment's Latin-1 text (R72; 46_rawbytes.md R299, R300). -/
def appendSegment (s : State) : State :=
  { s with segs := s.segs ++ [s.segbuf], text := s.text ++ s.segbuf.map latin1 }

/-! ## Change of mode -/

/-- A decoder returns to the dispatch loop with `m` the value MODE takes (41_dispatch.md R142, R143, R145). -/
def State.returnTo (s : State) (m : Mode) : State := { s with mode := m, phase := .loop }

end Sys2Proof.Machine
end

