-- ==== Sys2Proof/Machine/Flags.lean ====
section
/-! DEFINITION. The flags USH and SHIFT (10_state.md R24, R25): who sets them, who consumes them. -/

namespace Sys2Proof.Machine

/-- `USH <- 1` (42_ascii.md R170; 43_base40.md R216, R226). -/
def setUpperShift (s : State) : State := { s with ush := true }

/-- `EmitShifted(ch)`: with USH set the character is emitted 128 higher and the flag cleared (43_base40.md R207; 42_ascii.md R161). -/
def emitShifted (ch : Nat) (s : State) : State :=
  if s.ush then { emit (ch + 128) s with ush := false } else emit ch s

/-- The shift state `c + 1` a shift value selects (43_base40.md R210, R220). -/
def pendingShift (c : Nat) : Shift :=
  match c with
  | 0 => .s1
  | 1 => .s2
  | _ => .s3

/-- `SHIFT <- c + 1` (R210, R220). -/
def setShift (c : Nat) (s : State) : State := { s with shift := pendingShift c }

/-- `SHIFT <- 0`: states 1, 2, 3 are single-use (10_state.md R24). -/
def clearShift (s : State) : State := { s with shift := .s0 }

end Sys2Proof.Machine
end

