-- ==== Sys2Proof/Machine/Ascii.lean ====
section
/-! DEFINITION. The ASCII units (42_ascii.md R161 to R180). Each acts on the state after its codeword has been read (R160: read, then execute).
An operation that says "return m" writes MODE and goes back to the dispatch loop (41_dispatch.md R142). -/

namespace Sys2Proof.Machine

/-- R162. -/
def execAInv0 (s : State) : Host.Outcome State Fault Refusal := settle (raise .asciiZero s)

/-- R161: `Emit(cw - 1)`, or `Emit(cw + 127)` and `USH <- 0`; `ch = cw - 1`. -/
def execALit (ch : BitVec 7) (s : State) : Host.Outcome State Fault Refusal := .next (emitShifted ch.toNat s)

/-- R163. -/
def execAPad (s : State) : Host.Outcome State Fault Refusal := .next (s.returnTo .pad)

/-- R164. -/
def execADig2 (dd : BitVec 7) (s : State) : Host.Outcome State Fault Refusal := .next (emitAll (digitChars dd.toNat) s)

/-- R165. -/
def execALc40 (s : State) : Host.Outcome State Fault Refusal := .next (s.returnTo .c40)

/-- R166. -/
def execALb256 (s : State) : Host.Outcome State Fault Refusal := .next (s.returnTo .b256)

/-- R167. -/
def execAFnc1 (s : State) : Host.Outcome State Fault Refusal := .next (emit fnc1Char s)

/-- R168: only the codeword is skipped (R182). -/
def execASapp (s : State) : Host.Outcome State Fault Refusal := .next s

/-- R169. -/
def execARdrp (s : State) : Host.Outcome State Fault Refusal := .next s

/-- R170. -/
def execAUsh (s : State) : Host.Outcome State Fault Refusal := .next (setUpperShift s)

/-- R171: the header in place, the trailer to the front of TRL. -/
def execAM05 (s : State) : Host.Outcome State Fault Refusal :=
  .next (prependTrailer macroTrailer (emitAll macro05Header s))

/-- R172. -/
def execAM06 (s : State) : Host.Outcome State Fault Refusal :=
  .next (prependTrailer macroTrailer (emitAll macro06Header s))

/-- R173. -/
def execALx12 (s : State) : Host.Outcome State Fault Refusal := .next (s.returnTo .x12)

/-- R174. -/
def execALtxt (s : State) : Host.Outcome State Fault Refusal := .next (s.returnTo .text)

/-- R175. -/
def execALedf (s : State) : Host.Outcome State Fault Refusal := .next (s.returnTo .edf)

/-- R176: the designator bytes are not skipped (R182). -/
def execAEci (s : State) : Host.Outcome State Fault Refusal := .next s

/-- R177, for each of the codewords 242 to 253. -/
def execAInv242 (_cw : Byte) (s : State) : Host.Outcome State Fault Refusal := settle (raise .asciiReserved s)

/-- R178: `Available()` after the codeword has been consumed. -/
def execAEnd254 (s : State) : Host.Outcome State Fault Refusal :=
  settle (if available s = 0 then .ok s else raise .ascii254 s)

/-- R179. -/
def execAInv255 (s : State) : Host.Outcome State Fault Refusal := settle (raise .ascii255 s)

end Sys2Proof.Machine
end

