-- ==== Sys2Proof/Machine/Base40.lean ====
section
/-! DEFINITION. The C40 and TEXT units (43_base40.md R200 to R234): unlatches, pairs, and the value rules. A value rule is written once as a
procedure (`val...`), which `interp40` runs inside a pair and which the unit's own meaning (`exec...`) runs by itself. -/

namespace Sys2Proof.Machine

/-! ## Operations the two modes share -/

/-- A character of a table, or the error of a value beyond it ("Any value not resolvable by its table is a format error"). -/
def tableChar (table : List Nat) (miss : Cause) (c : Nat) (s : State) : Except Stop Nat :=
  match table[c]? with
  | some ch => .ok ch
  | none => raise miss s

/-- `EmitShifted(ch); SHIFT <- 0`. -/
def emitResolved (ch : Nat) (s : State) : Proc := .ok (clearShift (emitShifted ch s))

/-- `EmitShifted(table[c]); SHIFT <- 0`. -/
def emitFromTable (table : List Nat) (miss : Cause) (c : Nat) (s : State) : Proc := do
  let ch ← tableChar table miss c s
  emitResolved ch s

/-- FNC1 of shift set 2: `Emit(29); SHIFT <- 0`, USH neither read nor changed (R215; D9). -/
def emitFnc1Resolved (s : State) : Proc := .ok (clearShift (emit fnc1Char s))

/-- Shift-2 value 30: `USH <- 1; SHIFT <- 0` (R216; 90_conflicts.md C8). -/
def upperShiftResolved (s : State) : Proc := .ok (clearShift (setUpperShift s))

/-- `Unpack3` into V and C[], or `TRIPLE_ZERO` (R201). -/
def loadTriple (b1 b2 : Byte) (s : State) : Proc :=
  match unpack3 b1 b2 with
  | none => raise .tripleZero s
  | some t => .ok { s with v := BitVec.ofNat 16 (pairWord b1 b2 - 1), c := t }

/-- A pair: unpack, then the three values in the order C[0], C[1], C[2]; the first raise stops the rest (R200, R204). -/
def runPair (interp : Val → State → Proc) (b1 b2 : Byte) (s : State) : Proc := do
  let s0 ← loadTriple b1 b2 s
  let s1 ← interp s0.c.c1 s0
  let s2 ← interp s1.c.c2 s1
  interp s2.c.c3 s2

/-! ## C40 value rules -/

/-- R210. -/
def valCSh (c : Val) (s : State) : Proc := .ok (setShift c.toNat s)

/-- R211. -/
def valCBas (c : Val) (s : State) : Proc := .ok (emitShifted (basicChar upperLetters c.toNat) s)

/-- R212. -/
def valCBasx (s : State) : Proc := raise .b40Basic s

/-- R213. -/
def valCS1 (c : Val) (s : State) : Proc := emitResolved c.toNat s

/-- R214. -/
def valCS2 (c : Val) (s : State) : Proc := emitFromTable shift2Table .b40Shift2 c.toNat s

/-- R215. -/
def valCS2f (s : State) : Proc := emitFnc1Resolved s

/-- R216. -/
def valCS2u (s : State) : Proc := upperShiftResolved s

/-- R217. -/
def valCS2x (_c : Val) (s : State) : Proc := raise .b40Shift2 s

/-- R218: no table, so no value misses. -/
def valCS3 (c : Val) (s : State) : Proc := emitResolved (c.toNat + 96) s

/-! ## TEXT value rules -/

/-- R220. -/
def valTSh (c : Val) (s : State) : Proc := .ok (setShift c.toNat s)

/-- R221. -/
def valTBas (c : Val) (s : State) : Proc := .ok (emitShifted (basicChar lowerLetters c.toNat) s)

/-- R222. -/
def valTBasx (s : State) : Proc := raise .b40Basic s

/-- R223. -/
def valTS1 (c : Val) (s : State) : Proc := emitResolved c.toNat s

/-- R224. -/
def valTS2 (c : Val) (s : State) : Proc := emitFromTable shift2Table .b40Shift2 c.toNat s

/-- R225. -/
def valTS2f (s : State) : Proc := emitFnc1Resolved s

/-- R226. -/
def valTS2u (s : State) : Proc := upperShiftResolved s

/-- R227. -/
def valTS2x (_c : Val) (s : State) : Proc := raise .b40Shift2 s

/-- R228. -/
def valTS3 (c : Val) (s : State) : Proc := emitFromTable textShift3Table .textShift3 c.toNat s

/-- R229. -/
def valTS3x (_c : Val) (s : State) : Proc := raise .textShift3 s

/-! ## The choice of the value rule -/

/-- `Interp40(C40, c)` (R206). -/
def interpC40 (c : Val) (s : State) : Proc :=
  match s.shift with
  | .s0 => if c.toNat < 3 then valCSh c s else if c.toNat ≤ 39 then valCBas c s else valCBasx s
  | .s1 => valCS1 c s
  | .s2 =>
    if c.toNat ≤ 26 then valCS2 c s
    else if c.toNat = 27 then valCS2f s
    else if c.toNat = 30 then valCS2u s
    else valCS2x c s
  | .s3 => valCS3 c s

/-- `Interp40(TEXT, c)` (R206). -/
def interpText (c : Val) (s : State) : Proc :=
  match s.shift with
  | .s0 => if c.toNat < 3 then valTSh c s else if c.toNat ≤ 39 then valTBas c s else valTBasx s
  | .s1 => valTS1 c s
  | .s2 =>
    if c.toNat ≤ 26 then valTS2 c s
    else if c.toNat = 27 then valTS2f s
    else if c.toNat = 30 then valTS2u s
    else valTS2x c s
  | .s3 => if c.toNat ≤ 31 then valTS3 c s else valTS3x c s

/-! ## The units -/

/-- R202: `TripleSegment` returns and MODE becomes ASCII; SHIFT and USH are left to the next entry, which clears them. -/
def execCUnl (s : State) : Host.Outcome State Fault Refusal := .next (s.returnTo .ascii)

/-- R203. -/
def execTUnl (s : State) : Host.Outcome State Fault Refusal := .next (s.returnTo .ascii)

/-- R204. -/
def execCPair (b1 b2 : Byte) (s : State) : Host.Outcome State Fault Refusal := settle (runPair interpC40 b1 b2 s)

/-- R205. -/
def execTPair (b1 b2 : Byte) (s : State) : Host.Outcome State Fault Refusal := settle (runPair interpText b1 b2 s)

/-- R210. -/
def execCSh (c : Val) (s : State) : Host.Outcome State Fault Refusal := settle (valCSh c s)

/-- R211. -/
def execCBas (c : Val) (s : State) : Host.Outcome State Fault Refusal := settle (valCBas c s)

/-- R212. -/
def execCBasx (s : State) : Host.Outcome State Fault Refusal := settle (valCBasx s)

/-- R213. -/
def execCS1 (c : Val) (s : State) : Host.Outcome State Fault Refusal := settle (valCS1 c s)

/-- R214. -/
def execCS2 (c : Val) (s : State) : Host.Outcome State Fault Refusal := settle (valCS2 c s)

/-- R215. -/
def execCS2f (s : State) : Host.Outcome State Fault Refusal := settle (valCS2f s)

/-- R216. -/
def execCS2u (s : State) : Host.Outcome State Fault Refusal := settle (valCS2u s)

/-- R217. -/
def execCS2x (c : Val) (s : State) : Host.Outcome State Fault Refusal := settle (valCS2x c s)

/-- R218. -/
def execCS3 (c : Val) (s : State) : Host.Outcome State Fault Refusal := settle (valCS3 c s)

/-- R220. -/
def execTSh (c : Val) (s : State) : Host.Outcome State Fault Refusal := settle (valTSh c s)

/-- R221. -/
def execTBas (c : Val) (s : State) : Host.Outcome State Fault Refusal := settle (valTBas c s)

/-- R222. -/
def execTBasx (s : State) : Host.Outcome State Fault Refusal := settle (valTBasx s)

/-- R223. -/
def execTS1 (c : Val) (s : State) : Host.Outcome State Fault Refusal := settle (valTS1 c s)

/-- R224. -/
def execTS2 (c : Val) (s : State) : Host.Outcome State Fault Refusal := settle (valTS2 c s)

/-- R225. -/
def execTS2f (s : State) : Host.Outcome State Fault Refusal := settle (valTS2f s)

/-- R226. -/
def execTS2u (s : State) : Host.Outcome State Fault Refusal := settle (valTS2u s)

/-- R227. -/
def execTS2x (c : Val) (s : State) : Host.Outcome State Fault Refusal := settle (valTS2x c s)

/-- R228. -/
def execTS3 (c : Val) (s : State) : Host.Outcome State Fault Refusal := settle (valTS3 c s)

/-- R229. -/
def execTS3x (c : Val) (s : State) : Host.Outcome State Fault Refusal := settle (valTS3x c s)

end Sys2Proof.Machine
end

