-- ==== Sys2Proof/Machine/RawBytes.lean ====
section
/-! DEFINITION. The RawBytes (Base256) units (46_rawbytes.md R293 to R303). The bytes have been read and derandomized, and P counted up, by the
fetch (log 2). -/

namespace Sys2Proof.Machine

/-- The length test, then the run of `len` bytes begins with an empty SEGBUF (R293; R298: the test is kept as the source states it). -/
def startRun (len : Int) (s : State) : Proc :=
  if len < 0 then raise .b256Length s
  else .ok { s with cnt := len.toNat, segbuf := [], phase := .rawData }

/-- R294: the rest of the buffer, measured after the header byte. -/
def execBLen0 (s : State) : Host.Outcome State Fault Refusal := settle (startRun ((available s / 8 : Nat) : Int) s)

/-- R295: `CNT <- D1`. -/
def execBLen1 (d1 : Byte) (s : State) : Host.Outcome State Fault Refusal := settle (startRun (d1.toNat : Int) s)

/-- R296: `CNT <- 250*(D1 - 249) + D2`. -/
def execBLen2 (d1 d2 : Byte) (s : State) : Host.Outcome State Fault Refusal := settle (startRun (longLength d1 d2) s)

/-- R297: `SEGBUF <- SEGBUF ++ [b]`. -/
def execBData (b : Byte) (s : State) : Host.Outcome State Fault Refusal := .next { s with segbuf := s.segbuf ++ [b] }

end Sys2Proof.Machine
end

