-- ==== Sys2Proof/Machine/Sixbit.lean ====
section
/-! DEFINITION. The Sixbit (EDIFACT) units (45_sixbit.md R270 to R277). -/

namespace Sys2Proof.Machine

/-- The next place of the group of four; after the fourth value the group is complete (R270, the loop over `i`). -/
def nextPlace (s : State) : State :=
  match s.phase with
  | .sixbit k => { s with phase := .sixbit (k + 1) }
  | _ => s

/-- The unlatch for either value of SIXBIT_REALIGN: with 1 the rest of the byte is discarded; then the segment returns (R270, R271,
R275; D12). -/
def sixbitUnlatch (realigned : Bool) (s : State) : Proc := do
  let s' ← if realigned then realign s else .ok s
  .ok (s'.returnTo .ascii)

/-- R271: nothing is emitted, the later values of the group are not read. -/
def execEUnl (s : State) : Host.Outcome State Fault Refusal := settle (sixbitUnlatch sixbitRealign s)

/-- R272: `Emit(E | 0x40)`. -/
def execELo (e : Val) (s : State) : Host.Outcome State Fault Refusal := .next (nextPlace (emit (sixbitLow e) s))

/-- R273: `Emit(E)`. -/
def execEHi (e : Val) (s : State) : Host.Outcome State Fault Refusal := .next (nextPlace (emit (sixbitHigh e) s))

end Sys2Proof.Machine
end

