-- ==== Sys2Proof/Machine/X12.lean ====
section
/-! DEFINITION. The X12 units (44_x12.md R250 to R260). No value reads or writes SHIFT or USH (R260). -/

namespace Sys2Proof.Machine

/-- R253: carriage return. -/
def valXCr (s : State) : Proc := .ok (emit 13 s)

/-- R254: `*`. -/
def valXStar (s : State) : Proc := .ok (emit 42 s)

/-- R255: `>`. -/
def valXGt (s : State) : Proc := .ok (emit 62 s)

/-- R256: space. -/
def valXSp (s : State) : Proc := .ok (emit 32 s)

/-- R257: the digits. -/
def valXDig (c : Val) (s : State) : Proc := .ok (emit (c.toNat + 44) s)

/-- R258: the letters. -/
def valXLet (c : Val) (s : State) : Proc := .ok (emit (c.toNat + upperLetters) s)

/-- R259. -/
def valXInv (s : State) : Proc := raise .x12Value s

/-- `InterpX12(c)` (R252). -/
def interpX12 (c : Val) (s : State) : Proc :=
  if c.toNat = 0 then valXCr s
  else if c.toNat = 1 then valXStar s
  else if c.toNat = 2 then valXGt s
  else if c.toNat = 3 then valXSp s
  else if c.toNat ≤ 13 then valXDig c s
  else if c.toNat ≤ 39 then valXLet c s
  else valXInv s

/-- R251. -/
def execXUnl (s : State) : Host.Outcome State Fault Refusal := .next (s.returnTo .ascii)

/-- R252. -/
def execXPair (b1 b2 : Byte) (s : State) : Host.Outcome State Fault Refusal := settle (runPair interpX12 b1 b2 s)

/-- R253. -/
def execXCr (s : State) : Host.Outcome State Fault Refusal := settle (valXCr s)

/-- R254. -/
def execXStar (s : State) : Host.Outcome State Fault Refusal := settle (valXStar s)

/-- R255. -/
def execXGt (s : State) : Host.Outcome State Fault Refusal := settle (valXGt s)

/-- R256. -/
def execXSp (s : State) : Host.Outcome State Fault Refusal := settle (valXSp s)

/-- R257. -/
def execXDig (c : Val) (s : State) : Host.Outcome State Fault Refusal := settle (valXDig c s)

/-- R258. -/
def execXLet (c : Val) (s : State) : Host.Outcome State Fault Refusal := settle (valXLet c s)

/-- R259. -/
def execXInv (s : State) : Host.Outcome State Fault Refusal := settle (valXInv s)

end Sys2Proof.Machine
end

