-- ==== Sys2Proof/Machine/Dispatch.lean ====
section
/-! DEFINITION. The dispatch: one arm per unit, each the call of that unit's meaning on the state after the unit has been read. -/

namespace Sys2Proof.Machine

def exec (i : Instr) (s : State) : Host.Outcome State Fault Refusal :=
  match i with
  | .aInv0 => Sys2Proof.Machine.execAInv0 s
  | .aLit ch => Sys2Proof.Machine.execALit ch s
  | .aPad => Sys2Proof.Machine.execAPad s
  | .aDig2 dd => Sys2Proof.Machine.execADig2 dd s
  | .aLc40 => Sys2Proof.Machine.execALc40 s
  | .aLb256 => Sys2Proof.Machine.execALb256 s
  | .aFnc1 => Sys2Proof.Machine.execAFnc1 s
  | .aSapp => Sys2Proof.Machine.execASapp s
  | .aRdrp => Sys2Proof.Machine.execARdrp s
  | .aUsh => Sys2Proof.Machine.execAUsh s
  | .aM05 => Sys2Proof.Machine.execAM05 s
  | .aM06 => Sys2Proof.Machine.execAM06 s
  | .aLx12 => Sys2Proof.Machine.execALx12 s
  | .aLtxt => Sys2Proof.Machine.execALtxt s
  | .aLedf => Sys2Proof.Machine.execALedf s
  | .aEci => Sys2Proof.Machine.execAEci s
  | .aInv242 cw => Sys2Proof.Machine.execAInv242 cw s
  | .aEnd254 => Sys2Proof.Machine.execAEnd254 s
  | .aInv255 => Sys2Proof.Machine.execAInv255 s
  | .cUnl => Sys2Proof.Machine.execCUnl s
  | .tUnl => Sys2Proof.Machine.execTUnl s
  | .xUnl => Sys2Proof.Machine.execXUnl s
  | .cPair b1 b2 => Sys2Proof.Machine.execCPair b1 b2 s
  | .tPair b1 b2 => Sys2Proof.Machine.execTPair b1 b2 s
  | .xPair b1 b2 => Sys2Proof.Machine.execXPair b1 b2 s
  | .cSh c => Sys2Proof.Machine.execCSh c s
  | .cBas c => Sys2Proof.Machine.execCBas c s
  | .cBasx => Sys2Proof.Machine.execCBasx s
  | .cS1 c => Sys2Proof.Machine.execCS1 c s
  | .cS2 c => Sys2Proof.Machine.execCS2 c s
  | .cS2f => Sys2Proof.Machine.execCS2f s
  | .cS2u => Sys2Proof.Machine.execCS2u s
  | .cS2x c => Sys2Proof.Machine.execCS2x c s
  | .cS3 c => Sys2Proof.Machine.execCS3 c s
  | .tSh c => Sys2Proof.Machine.execTSh c s
  | .tBas c => Sys2Proof.Machine.execTBas c s
  | .tBasx => Sys2Proof.Machine.execTBasx s
  | .tS1 c => Sys2Proof.Machine.execTS1 c s
  | .tS2 c => Sys2Proof.Machine.execTS2 c s
  | .tS2f => Sys2Proof.Machine.execTS2f s
  | .tS2u => Sys2Proof.Machine.execTS2u s
  | .tS2x c => Sys2Proof.Machine.execTS2x c s
  | .tS3 c => Sys2Proof.Machine.execTS3 c s
  | .tS3x c => Sys2Proof.Machine.execTS3x c s
  | .xCr => Sys2Proof.Machine.execXCr s
  | .xStar => Sys2Proof.Machine.execXStar s
  | .xGt => Sys2Proof.Machine.execXGt s
  | .xSp => Sys2Proof.Machine.execXSp s
  | .xDig c => Sys2Proof.Machine.execXDig c s
  | .xLet c => Sys2Proof.Machine.execXLet c s
  | .xInv => Sys2Proof.Machine.execXInv s
  | .eUnl => Sys2Proof.Machine.execEUnl s
  | .eLo e => Sys2Proof.Machine.execELo e s
  | .eHi e => Sys2Proof.Machine.execEHi e s
  | .bLen0 => Sys2Proof.Machine.execBLen0 s
  | .bLen1 d1 => Sys2Proof.Machine.execBLen1 d1 s
  | .bLen2 d1 d2 => Sys2Proof.Machine.execBLen2 d1 d2 s
  | .bData b => Sys2Proof.Machine.execBData b s

end Sys2Proof.Machine
end

