-- ==== Sys2Proof/WellFormed.lean ====
section
/-! DEFINITION. Which operand values a unit can have: the inclusive ranges `lo` to `hi` of spec/opcode_table.json (30_encoding.md R96 to R104). A
constructor without a range holds every value of its operand's type. -/

namespace Sys2Proof

/-- A value of a pair is at most 40 (43_base40.md R201: `c1` in 0 to 40, `c2` and `c3` in 0 to 39). -/
def tripleMax : Nat := 40

/-- The value `c` lies in `lo` to `hi`. -/
def inRange (lo hi : Nat) {w : Nat} (c : BitVec w) : Bool :=
  decide (lo ≤ c.toNat) && decide (c.toNat ≤ hi)

/-- The first byte of a pair is not the unlatch byte 254 (R92). -/
def pairFirst (b1 : Byte) : Bool := decide (b1.toNat ≠ 254)

/-- The shift-2 values that no row but `S2X` takes: 28, 29, 31 to 40 (R99). -/
def shift2Miss (c : Val) : Bool := inRange 28 29 c || inRange 31 40 c

/-- The operands of a unit lie in the ranges of its row. -/
def Instr.wf : Instr → Bool
  | .aInv0 => true
  | .aLit _ => true
  | .aPad => true
  | .aDig2 dd => inRange 0 99 dd
  | .aLc40 => true
  | .aLb256 => true
  | .aFnc1 => true
  | .aSapp => true
  | .aRdrp => true
  | .aUsh => true
  | .aM05 => true
  | .aM06 => true
  | .aLx12 => true
  | .aLtxt => true
  | .aLedf => true
  | .aEci => true
  | .aInv242 cw => inRange 242 253 cw
  | .aEnd254 => true
  | .aInv255 => true
  | .cUnl => true
  | .tUnl => true
  | .xUnl => true
  | .cPair b1 _ => pairFirst b1
  | .tPair b1 _ => pairFirst b1
  | .xPair b1 _ => pairFirst b1
  | .cSh c => inRange 0 2 c
  | .cBas c => inRange 3 39 c
  | .cBasx => true
  | .cS1 c => inRange 0 tripleMax c
  | .cS2 c => inRange 0 26 c
  | .cS2f => true
  | .cS2u => true
  | .cS2x c => shift2Miss c
  | .cS3 c => inRange 0 tripleMax c
  | .tSh c => inRange 0 2 c
  | .tBas c => inRange 3 39 c
  | .tBasx => true
  | .tS1 c => inRange 0 tripleMax c
  | .tS2 c => inRange 0 26 c
  | .tS2f => true
  | .tS2u => true
  | .tS2x c => shift2Miss c
  | .tS3 c => inRange 0 31 c
  | .tS3x c => inRange 32 tripleMax c
  | .xCr => true
  | .xStar => true
  | .xGt => true
  | .xSp => true
  | .xDig c => inRange 4 13 c
  | .xLet c => inRange 14 39 c
  | .xInv => true
  | .eUnl => true
  | .eLo e => inRange 0 30 e
  | .eHi e => inRange 32 63 e
  | .bLen0 => true
  | .bLen1 d1 => inRange 1 249 d1
  | .bLen2 d1 _ => inRange 250 255 d1
  | .bData _ => true

end Sys2Proof
end

