-- ==== Sys2Proof/Decode.lean ====
section
/-! DEFINITION. The decoder: the maps of 30_encoding.md R96 to R104 as the procedure of R109 ("take MODE (and SHIFT), take the unit's value as its
format says, pick the one row of that mode whose range holds the value"); after it the encoder, written from the same maps and
from R107, R108. -/

namespace Sys2Proof

/-- The unit formats (30_encoding.md R90 to R95, R109). -/
inductive Format where
  | A8
  | P16
  | U8
  | V40
  | S6
  | H8
  | H16
  | D8
  deriving DecidableEq, Repr

/-- How many bits the value of a unit has (R109, the field `width`). -/
def Format.width : Format → Nat
  | .A8 => 8
  | .P16 => 16
  | .U8 => 8
  | .V40 => 6
  | .S6 => 6
  | .H8 => 8
  | .H16 => 16
  | .D8 => 8

/-- What selects the rows beside the value: MODE, SHIFT where it applies, and the place in the stream (R106, R109). -/
inductive Ctx where
  /-- An ASCII codeword. -/
  | ascii
  /-- The first byte of a would-be pair, equal to 254. -/
  | unlatch (m : TripleMode)
  /-- A pair. -/
  | pair (m : TripleMode)
  /-- A value of a C40 or TEXT pair under a shift state. -/
  | value (m : Base40) (sh : Shift)
  /-- A value of an X12 pair. -/
  | valueX12
  /-- A Sixbit value. -/
  | sixbit
  /-- A RawBytes header of one byte (derandomized). -/
  | header1
  /-- A RawBytes header of two bytes (derandomized). -/
  | header2
  /-- A RawBytes data byte (derandomized). -/
  | data
  deriving DecidableEq, Repr

/-- The format a context reads. -/
def Ctx.format : Ctx → Format
  | .ascii => .A8
  | .unlatch _ => .U8
  | .pair _ => .P16
  | .value _ _ => .V40
  | .valueX12 => .V40
  | .sixbit => .S6
  | .header1 => .H8
  | .header2 => .H16
  | .data => .D8

/-- Why a value is no unit of a context. -/
inductive Reject where
  /-- The value does not fit the format's width. -/
  | tooWide
  /-- The byte is not 254, so it begins a pair (R93). -/
  | notUnlatch
  /-- The first byte is 254, so it is an unlatch and no pair (R92). -/
  | unlatchByte
  /-- No pair delivers a value above 40 (R92). -/
  | valueAbove40
  /-- The header byte is 250 or more and has a second byte (R104). -/
  | headerHasTwoBytes
  /-- The first header byte is below 250: the header is that byte alone (R104). -/
  | headerHasOneByte
  deriving DecidableEq, Repr

/-- The ASCII map (R96); `cw` is a byte's value. -/
def decodeAscii (cw : Nat) : Instr :=
  if cw = 0 then .aInv0
  else if cw ≤ 128 then .aLit (BitVec.ofNat 7 (cw - 1))
  else if cw = 129 then .aPad
  else if cw ≤ 229 then .aDig2 (BitVec.ofNat 7 (cw - 130))
  else if cw = 230 then .aLc40
  else if cw = 231 then .aLb256
  else if cw = 232 then .aFnc1
  else if cw = 233 then .aSapp
  else if cw = 234 then .aRdrp
  else if cw = 235 then .aUsh
  else if cw = 236 then .aM05
  else if cw = 237 then .aM06
  else if cw = 238 then .aLx12
  else if cw = 239 then .aLtxt
  else if cw = 240 then .aLedf
  else if cw = 241 then .aEci
  else if cw ≤ 253 then .aInv242 (BitVec.ofNat 8 cw)
  else if cw = 254 then .aEnd254
  else .aInv255

/-- The unlatch of a triple mode (R93, R105). -/
def unlatchUnit : TripleMode → Instr
  | .c40 => .cUnl
  | .text => .tUnl
  | .x12 => .xUnl

/-- The pair of a triple mode (R92). -/
def pairUnit (m : TripleMode) (b1 b2 : Byte) : Instr :=
  match m with
  | .c40 => .cPair b1 b2
  | .text => .tPair b1 b2
  | .x12 => .xPair b1 b2

/-- The C40 value maps (R97 to R100). -/
def decodeC40 (sh : Shift) (c : Nat) : Instr :=
  match sh with
  | .s0 =>
    if c < 3 then .cSh (BitVec.ofNat 6 c) else if c ≤ 39 then .cBas (BitVec.ofNat 6 c) else .cBasx
  | .s1 => .cS1 (BitVec.ofNat 6 c)
  | .s2 =>
    if c ≤ 26 then .cS2 (BitVec.ofNat 6 c)
    else if c = 27 then .cS2f
    else if c = 30 then .cS2u
    else .cS2x (BitVec.ofNat 6 c)
  | .s3 => .cS3 (BitVec.ofNat 6 c)

/-- The TEXT value maps (R97 to R100). -/
def decodeText (sh : Shift) (c : Nat) : Instr :=
  match sh with
  | .s0 =>
    if c < 3 then .tSh (BitVec.ofNat 6 c) else if c ≤ 39 then .tBas (BitVec.ofNat 6 c) else .tBasx
  | .s1 => .tS1 (BitVec.ofNat 6 c)
  | .s2 =>
    if c ≤ 26 then .tS2 (BitVec.ofNat 6 c)
    else if c = 27 then .tS2f
    else if c = 30 then .tS2u
    else .tS2x (BitVec.ofNat 6 c)
  | .s3 => if c ≤ 31 then .tS3 (BitVec.ofNat 6 c) else .tS3x (BitVec.ofNat 6 c)

/-- The value maps of the two modes with a shift machine. -/
def decodeBase40 (m : Base40) (sh : Shift) (c : Nat) : Instr :=
  match m with
  | .c40 => decodeC40 sh c
  | .text => decodeText sh c

/-- The X12 map (R102). -/
def decodeX12 (c : Nat) : Instr :=
  if c = 0 then .xCr
  else if c = 1 then .xStar
  else if c = 2 then .xGt
  else if c = 3 then .xSp
  else if c ≤ 13 then .xDig (BitVec.ofNat 6 c)
  else if c ≤ 39 then .xLet (BitVec.ofNat 6 c)
  else .xInv

/-- The Sixbit map; the unlatch test comes first (R103). -/
def decodeSixbit (e : Nat) : Instr :=
  if e = Machine.sixbitUnlatchValue then .eUnl
  else if Machine.sixbitBit5 e then .eHi (BitVec.ofNat 6 e)
  else .eLo (BitVec.ofNat 6 e)

/-- The one-byte RawBytes headers (R104), `d1` below 250. -/
def decodeHeader (d1 : Nat) : Instr :=
  if d1 = 0 then .bLen0 else .bLen1 (BitVec.ofNat 8 d1)

/-- The high and the low byte of a 16-bit value, the byte read first the more significant (20_memory.md R62). -/
def highByte (w : Nat) : Byte := BitVec.ofNat 8 (w / 256)

/-- See `highByte`. -/
def lowByte (w : Nat) : Byte := BitVec.ofNat 8 (w % 256)

/-- The decoder: the one row of context `c` whose range holds the value `v` (R109), or why there is none. -/
def decode (c : Ctx) (v : Nat) : Except Reject Instr :=
  if 2 ^ c.format.width ≤ v then .error .tooWide
  else
    match c with
    | .ascii => .ok (decodeAscii v)
    | .unlatch m => if v = 254 then .ok (unlatchUnit m) else .error .notUnlatch
    | .pair m =>
      if v / 256 = 254 then .error .unlatchByte else .ok (pairUnit m (highByte v) (lowByte v))
    | .value m sh => if v ≤ tripleMax then .ok (decodeBase40 m sh v) else .error .valueAbove40
    | .valueX12 => if v ≤ tripleMax then .ok (decodeX12 v) else .error .valueAbove40
    | .sixbit => .ok (decodeSixbit v)
    | .header1 => if v < 250 then .ok (decodeHeader v) else .error .headerHasTwoBytes
    | .header2 =>
      if v / 256 < 250 then .error .headerHasOneByte else .ok (.bLen2 (highByte v) (lowByte v))
    | .data => .ok (.bData (BitVec.ofNat 8 v))

/-! ## The encoder -/

/-- The context under which a unit is read: the `mode` and `shift` columns of spec/opcode_table.json. -/
def Instr.ctx : Instr → Ctx
  | .aInv0 => .ascii
  | .aLit _ => .ascii
  | .aPad => .ascii
  | .aDig2 _ => .ascii
  | .aLc40 => .ascii
  | .aLb256 => .ascii
  | .aFnc1 => .ascii
  | .aSapp => .ascii
  | .aRdrp => .ascii
  | .aUsh => .ascii
  | .aM05 => .ascii
  | .aM06 => .ascii
  | .aLx12 => .ascii
  | .aLtxt => .ascii
  | .aLedf => .ascii
  | .aEci => .ascii
  | .aInv242 _ => .ascii
  | .aEnd254 => .ascii
  | .aInv255 => .ascii
  | .cUnl => .unlatch .c40
  | .tUnl => .unlatch .text
  | .xUnl => .unlatch .x12
  | .cPair _ _ => .pair .c40
  | .tPair _ _ => .pair .text
  | .xPair _ _ => .pair .x12
  | .cSh _ => .value .c40 .s0
  | .cBas _ => .value .c40 .s0
  | .cBasx => .value .c40 .s0
  | .cS1 _ => .value .c40 .s1
  | .cS2 _ => .value .c40 .s2
  | .cS2f => .value .c40 .s2
  | .cS2u => .value .c40 .s2
  | .cS2x _ => .value .c40 .s2
  | .cS3 _ => .value .c40 .s3
  | .tSh _ => .value .text .s0
  | .tBas _ => .value .text .s0
  | .tBasx => .value .text .s0
  | .tS1 _ => .value .text .s1
  | .tS2 _ => .value .text .s2
  | .tS2f => .value .text .s2
  | .tS2u => .value .text .s2
  | .tS2x _ => .value .text .s2
  | .tS3 _ => .value .text .s3
  | .tS3x _ => .value .text .s3
  | .xCr => .valueX12
  | .xStar => .valueX12
  | .xGt => .valueX12
  | .xSp => .valueX12
  | .xDig _ => .valueX12
  | .xLet _ => .valueX12
  | .xInv => .valueX12
  | .eUnl => .sixbit
  | .eLo _ => .sixbit
  | .eHi _ => .sixbit
  | .bLen0 => .header1
  | .bLen1 _ => .header1
  | .bLen2 _ _ => .header2
  | .bData _ => .data

/-- The value of a unit: the number its row's `match` and range speak of (R107, R109). For RawBytes units it is the derandomized
value. -/
def encode : Instr → Nat
  | .aInv0 => 0
  | .aLit ch => ch.toNat + 1
  | .aPad => 129
  | .aDig2 dd => dd.toNat + 130
  | .aLc40 => 230
  | .aLb256 => 231
  | .aFnc1 => 232
  | .aSapp => 233
  | .aRdrp => 234
  | .aUsh => 235
  | .aM05 => 236
  | .aM06 => 237
  | .aLx12 => 238
  | .aLtxt => 239
  | .aLedf => 240
  | .aEci => 241
  | .aInv242 cw => cw.toNat
  | .aEnd254 => 254
  | .aInv255 => 255
  | .cUnl => 254
  | .tUnl => 254
  | .xUnl => 254
  | .cPair b1 b2 => Machine.pairWord b1 b2
  | .tPair b1 b2 => Machine.pairWord b1 b2
  | .xPair b1 b2 => Machine.pairWord b1 b2
  | .cSh c => c.toNat
  | .cBas c => c.toNat
  | .cBasx => 40
  | .cS1 c => c.toNat
  | .cS2 c => c.toNat
  | .cS2f => 27
  | .cS2u => 30
  | .cS2x c => c.toNat
  | .cS3 c => c.toNat
  | .tSh c => c.toNat
  | .tBas c => c.toNat
  | .tBasx => 40
  | .tS1 c => c.toNat
  | .tS2 c => c.toNat
  | .tS2f => 27
  | .tS2u => 30
  | .tS2x c => c.toNat
  | .tS3 c => c.toNat
  | .tS3x c => c.toNat
  | .xCr => 0
  | .xStar => 1
  | .xGt => 2
  | .xSp => 3
  | .xDig c => c.toNat
  | .xLet c => c.toNat
  | .xInv => 40
  | .eUnl => 31
  | .eLo e => e.toNat
  | .eHi e => e.toNat
  | .bLen0 => 0
  | .bLen1 d1 => d1.toNat
  | .bLen2 d1 d2 => Machine.pairWord d1 d2
  | .bData b => b.toNat

/-- The format of a unit: the `format` column of spec/opcode_table.json. -/
def Instr.format (i : Instr) : Format := i.ctx.format

/-- The bytes of a unit of whole bytes whose first byte stands at 1-based position `p` (R107, R108): RawBytes bytes are randomized,
each at its own position. A Sixbit value and a value of a pair are no whole bytes. -/
def encodeBytes (p : Nat) (i : Instr) : Option (List Byte) :=
  match i.format with
  | .A8 => some [BitVec.ofNat 8 (encode i)]
  | .U8 => some [BitVec.ofNat 8 (encode i)]
  | .P16 => some [highByte (encode i), lowByte (encode i)]
  | .H8 => some [Machine.randomize (BitVec.ofNat 8 (encode i)) p]
  | .H16 => some [Machine.randomize (highByte (encode i)) p, Machine.randomize (lowByte (encode i)) (p + 1)]
  | .D8 => some [Machine.randomize (BitVec.ofNat 8 (encode i)) p]
  | .S6 => none
  | .V40 => none

/-! ## The table's words -/

/-- The context in which a bare word of the table is read, by its width. The bits alone do not select a row (R106), so this is the
model's choice (log 8): 8 bits are an ASCII codeword (the mode a decode starts in), 6 bits a Sixbit value, 16 bits what
stands where a C40 pair begins. -/
def tableCtx (nbits w : Nat) : Option Ctx :=
  if nbits = 6 then some .sixbit
  else if nbits = 8 then some .ascii
  else if nbits = 16 then some (if w / 256 = 254 then .unlatch .c40 else .pair .c40)
  else none

/-- The unit the decoder reads from a bare word of the table, numbered as the table numbers it: a 16-bit word is
`(first byte << 8) + second byte` (R109). -/
def decodeTableWord (nbits w : Nat) : Option Instr :=
  if 2 ^ nbits ≤ w then none
  else
    match tableCtx nbits w with
    | none => none
    | some (.unlatch m) => (decode (.unlatch m) (w / 256)).toOption
    | some c => (decode c w).toOption

end Sys2Proof
end

