-- ==== Sys2Proof/Machine/Fetch.lean ====
section
/-! DEFINITION. What a step does before and around a unit: the loops of the dispatch and of the decoders, their end tests, and the reads of each
unit (41_dispatch.md R140 to R144; 42_ascii.md R160; 43_base40.md R200; 45_sixbit.md R270; 46_rawbytes.md R293). An "until
Available() <= 0" at the foot of a loop is tested before the next unit, which is the same test at the same place (log 13). -/

namespace Sys2Proof.Machine

/-- What the machine finds to do in a BUSY state. -/
inductive Fetched where
  /-- A unit, and the state after its reads. -/
  | unit (i : Instr) (s : State)
  /-- A loop's own bookkeeping: a decoder entered, a decoder returned, a segment ended, the decode completed (R148). -/
  | quiet (s : State)

/-- The unit the decoder finds in a context. -/
def decoded (c : Ctx) (v : Nat) (s : State) : Except Stop Fetched :=
  match decode c v with
  | .ok i => .ok (.unit i s)
  | .error _ => .error (.refused .undecodedUnit)

/-! ## The dispatch loop -/

/-- The exit of the loop: the trailer is appended once if it is non-empty, and RUN becomes DONE (R140, R144). The decoded buffer is kept as
RES.raw, which stays until the next launch (47_result.md R320; log 18). -/
def complete (s : State) : State :=
  { s with text := if 0 < s.trl.length then s.text ++ s.trl else s.text, run := .done, raw := s.cw.bytes }

/-- Entry of `AsciiSegment`: `USH <- 0` (42_ascii.md R160; D6). -/
def enterAscii (s : State) : State := { s with ush := false, phase := .ascii }

/-- Entry of `TripleSegment(m)`: `SHIFT <- 0; USH <- 0` (43_base40.md R200; D6, D7). -/
def enterTriple (m : TripleMode) (s : State) : State := { s with shift := .s0, ush := false, phase := .triple m }

/-- Entry of `SixbitSegment`: no value of a group read yet (45_sixbit.md R270). -/
def enterSixbit (s : State) : State := { s with phase := .sixbit 0 }

/-- Entry of `RawBytesSegment`: `P <- CodewordPosition()` (46_rawbytes.md R293, R301). -/
def enterRaw (s : State) : State := { s with p := codewordPosition s, phase := .rawHeader }

/-- The loop test and the choice of the decoder (R140, R141). -/
def fetchLoop (s : State) : State :=
  if available s = 0 then complete s
  else
    match s.mode with
    | .ascii => enterAscii s
    | .c40 => enterTriple .c40 s
    | .text => enterTriple .text s
    | .x12 => enterTriple .x12 s
    | .edf => enterSixbit s
    | .b256 => enterRaw s
    | .pad => complete s

/-! ## The decoders -/

/-- One round of `AsciiSegment` (42_ascii.md R160): end on exhaustion (R181), else read a codeword and select its unit. -/
def fetchAscii (s : State) : Except Stop Fetched :=
  if available s = 0 then .ok (.quiet (s.returnTo .ascii))
  else do
    let (cw, s) ← readBits 8 s
    decoded .ascii cw { s with b1 := BitVec.ofNat 8 cw }

/-- One round of `TripleSegment(m)` (43_base40.md R200): end when no bits or exactly 8 bits remain, then the first byte, its test for 254, and
the second byte. -/
def fetchTriple (m : TripleMode) (s : State) : Except Stop Fetched :=
  if available s = 0 then .ok (.quiet (s.returnTo .ascii))
  else if available s = 8 then .ok (.quiet (s.returnTo .ascii))
  else do
    let (x1, s) ← readBits 8 s
    let s := { s with b1 := BitVec.ofNat 8 x1 }
    if x1 = 254 then decoded (.unlatch m) x1 s
    else do
      let (x2, s) ← readBits 8 s
      decoded (.pair m) (x1 * 256 + x2) { s with b2 := BitVec.ofNat 8 x2 }

/-- One value of `SixbitSegment` (45_sixbit.md R270): the 16-bit test before each group (R274), then six bits. -/
def fetchSixbit (place : Fin 4) (s : State) : Except Stop Fetched :=
  if place = 0 ∧ available s ≤ 16 then .ok (.quiet (s.returnTo .ascii))
  else do
    let (e, s) ← readBits 6 s
    decoded .sixbit e { s with e := BitVec.ofNat 6 e }

/-- The header of `RawBytesSegment`: one derandomized byte, and a second one from 250 on (46_rawbytes.md R293). -/
def fetchHeader (s : State) : Except Stop Fetched := do
  let (d1, s) ← readRaw s
  let s := { s with d1 := d1 }
  if d1.toNat < 250 then decoded .header1 d1.toNat s
  else do
    let (d2, s) ← readRaw s
    decoded .header2 (pairWord d1 d2) { s with d2 := d2 }

/-- One byte of the counted run, with the test the source states before the read; when CNT bytes are there, the segment is appended and
the decoder returns (46_rawbytes.md R293, R297, R299, R300). -/
def fetchData (s : State) : Except Stop Fetched :=
  if s.cnt ≤ s.segbuf.length then .ok (.quiet ((appendSegment s).returnTo .ascii))
  else if available s < 8 then raise .outOfData s
  else do
    let (b, s) ← readRaw s
    decoded .data b.toNat s

/-- The next thing to do, by the active procedure (41_dispatch.md R148). -/
def fetch (s : State) : Except Stop Fetched :=
  match s.phase with
  | .loop => .ok (.quiet (fetchLoop s))
  | .ascii => fetchAscii s
  | .triple m => fetchTriple m s
  | .sixbit k => fetchSixbit k s
  | .rawHeader => fetchHeader s
  | .rawData => fetchData s

/-! ## A program placed where the next step fetches -/

/-- A launched machine inside `AsciiSegment` over the one codeword `w`. -/
def placeAscii (w : Nat) (s : State) : State :=
  { s with
    cw := Memory.ofBytes [BitVec.ofNat 8 w], n := 1, supplied := true, pos := 0,
    mode := .ascii, phase := .ascii, run := .busy }

/-- A launched machine inside `TripleSegment(C40)` over the two bytes of `w`. -/
def placePair (w : Nat) (s : State) : State :=
  { s with
    cw := Memory.ofBytes [highByte w, lowByte w], n := 2, supplied := true, pos := 0,
    mode := .c40, phase := .triple .c40, run := .busy }

/-- A launched machine inside `SixbitSegment` over three bytes whose first six bits are `w`. -/
def placeSixbit (w : Nat) (s : State) : State :=
  { s with
    cw := Memory.ofBytes (groupBytes [BitVec.ofNat 6 w, 0, 0, 0]), n := 3, supplied := true, pos := 0,
    mode := .edf, phase := .sixbit 0, run := .busy }

/-- The word of the table stored where the next step fetches, with the procedure that reads it active (log 8). -/
def placeWord (nbits w : Nat) (s : State) : State :=
  if nbits = 16 then placePair w s
  else if nbits = 6 then placeSixbit w s
  else placeAscii w s

end Sys2Proof.Machine
end

