-- ==== Sys2Proof/Machine/Step.lean ====
section
/-! DEFINITION. One step of the block (41_dispatch.md R148): while BUSY, one unit or one piece of the loops' bookkeeping; otherwise the block does
nothing, and only the host's actions (HostPort.lean) go on from there (70_reset_and_hazards.md R383; log 6). -/

namespace Sys2Proof.Machine

/-- What a fetched thing does. -/
def Fetched.run : Fetched → Host.Outcome State Fault Refusal
  | .unit i s => exec i s
  | .quiet s => .next s

/-- One step of a BUSY machine. -/
def stepBusy (s : State) : Host.Outcome State Fault Refusal :=
  match fetch s with
  | .ok f => f.run
  | .error st => st.outcome

/-- One step. -/
def step (s : State) : Host.Outcome State Fault Refusal :=
  match s.run with
  | .busy => stepBusy s
  | .idle => .next s
  | .done => .next s
  | .error => .next s

/-- `s` with a word of the table placed so that the next step reads and runs it (log 8). -/
def State.withFetchWord (s : State) (nbits w : Nat) : State := placeWord nbits w s

end Sys2Proof.Machine
end

