-- ==== Sys2Proof/Machine/Function.lean ====
section
/-! DEFINITION. The block as the pure function `Decode : List Byte -> Except ErrorKind Result` of 00_scope.md R5 and 41_dispatch.md R140, written from
the spec's pseudocode apart from the step machine: it works on the stream as a list of bits and on characters as plain numbers, and
shares with the machine the parameters of Params.lean only. Statements compare the two. Each loop carries a fuel, since a loop
of the pseudocode is not a structural recursion; `bits + 1` rounds are always enough (10_state.md R37). -/

namespace Sys2Proof.Fn

open Sys2Proof.Machine

/-- Why the function stops early. -/
inductive Halt where
  | raised (c : Cause)
  | outOfFuel
  deriving DecidableEq, Repr

/-- What the decoders carry: bits consumed, bits left, and the three accumulators. -/
structure Flow where
  pos : Nat
  rest : List Bool
  text : List Nat
  trl : List Nat
  segs : List (List Nat)
  deriving DecidableEq, Repr

/-- `raise FormatError(c)`. -/
def fail {α : Type} (c : Cause) : Except Halt α := .error (.raised c)

/-- The bits of a byte, most significant first (R7). -/
def byteBits (b : Byte) : List Bool := (List.range 8).map fun j => b.getLsbD (7 - j)

/-- The bit stream of a buffer (R7). -/
def streamBits (bs : List Byte) : List Bool := bs.flatMap byteBits

/-- The number a list of bits spells, the first bit the most significant (R61). -/
def bitsValue (l : List Bool) : Nat := l.foldl (fun a b => 2 * a + b.toNat) 0

/-- `ReadBits(n)` (R120). -/
def read (n : Nat) (f : Flow) : Except Halt (Nat × Flow) :=
  if f.rest.length < n then fail .outOfData
  else .ok (bitsValue (f.rest.take n), { f with pos := f.pos + n, rest := f.rest.drop n })

/-- `Emit` of each character of a list. -/
def put (l : List Nat) (f : Flow) : Flow := { f with text := f.text ++ l }

/-! ## ASCII (42_ascii.md) -/

/-- What an ASCII unit does: the accumulators, USH, and the mode it returns, if it returns. -/
def asciiUnit (cw : Nat) (ush : Bool) (f : Flow) : Except Halt (Flow × Bool × Option Mode) :=
  if cw = 0 then fail .asciiZero
  else if cw ≤ 128 then .ok (put [if ush then cw + 127 else cw - 1] f, false, none)
  else if cw = 129 then .ok (f, ush, some .pad)
  else if cw ≤ 229 then .ok (put [48 + (cw - 130) / 10, 48 + (cw - 130) % 10] f, ush, none)
  else if cw = 230 then .ok (f, ush, some .c40)
  else if cw = 231 then .ok (f, ush, some .b256)
  else if cw = 232 then .ok (put [29] f, ush, none)
  else if cw = 233 then .ok (f, ush, none)
  else if cw = 234 then .ok (f, ush, none)
  else if cw = 235 then .ok (f, true, none)
  else if cw = 236 then .ok ({ put macro05Header f with trl := macroTrailer ++ f.trl }, ush, none)
  else if cw = 237 then .ok ({ put macro06Header f with trl := macroTrailer ++ f.trl }, ush, none)
  else if cw = 238 then .ok (f, ush, some .x12)
  else if cw = 239 then .ok (f, ush, some .text)
  else if cw = 240 then .ok (f, ush, some .edf)
  else if cw = 241 then .ok (f, ush, none)
  else if cw ≤ 253 then fail .asciiReserved
  else if cw = 254 then (if f.rest.length = 0 then .ok (f, ush, none) else fail .ascii254)
  else fail .ascii255

/-- The loop of `AsciiSegment()` (R160). -/
def asciiSegment : Nat → Bool → Flow → Except Halt (Mode × Flow)
  | 0, _, _ => .error .outOfFuel
  | k + 1, ush, f => do
    let (cw, f) ← read 8 f
    let (f, ush, ret) ← asciiUnit cw ush f
    match ret with
    | some m => .ok (m, f)
    | none => if f.rest.length = 0 then .ok (.ascii, f) else asciiSegment k ush f

/-! ## The triple modes (43_base40.md, 44_x12.md) -/

/-- The characters of one value, and the flags after it. -/
structure Shown where
  out : List Nat
  shift : Shift
  ush : Bool
  deriving DecidableEq, Repr

/-- `EmitShifted(ch)`, leaving shift state 0 (R207). -/
def shown (ush : Bool) (ch : Nat) : Shown := ⟨[if ush then ch + 128 else ch], .s0, false⟩

/-- The value rules of C40 and TEXT (R206 to R229); `letters` and `third` are what the modes differ in. -/
def shiftValue (letters : Nat) (third : Nat → Option Nat) (sh : Shift) (ush : Bool) (c : Nat) : Except Cause Shown :=
  match sh with
  | .s0 =>
    if c = 0 then .ok ⟨[], .s1, ush⟩
    else if c = 1 then .ok ⟨[], .s2, ush⟩
    else if c = 2 then .ok ⟨[], .s3, ush⟩
    else if c = 3 then .ok (shown ush 32)
    else if c ≤ 13 then .ok (shown ush (c + 44))
    else if c ≤ 39 then .ok (shown ush (c + letters))
    else .error .b40Basic
  | .s1 => .ok (shown ush c)
  | .s2 =>
    if c = 27 then .ok ⟨[29], .s0, ush⟩
    else if c = 30 then .ok ⟨[], .s0, true⟩
    else match shift2Table[c]? with
      | some ch => .ok (shown ush ch)
      | none => .error .b40Shift2
  | .s3 =>
    match third c with
    | some ch => .ok (shown ush ch)
    | none => .error .textShift3

/-- The X12 value rules (R252 to R259). -/
def x12Value (c : Nat) : Except Cause Nat :=
  if c = 0 then .ok 13
  else if c = 1 then .ok 42
  else if c = 2 then .ok 62
  else if c = 3 then .ok 32
  else if c ≤ 13 then .ok (c + 44)
  else if c ≤ 39 then .ok (c + 51)
  else .error .x12Value

/-- One value under a triple mode. -/
def value (m : TripleMode) (sh : Shift) (ush : Bool) (c : Nat) : Except Cause Shown :=
  match m with
  | .c40 => shiftValue 51 (fun c => some (c + 96)) sh ush c
  | .text => shiftValue 83 (fun c => textShift3Table[c]?) sh ush c
  | .x12 =>
    match x12Value c with
    | .ok ch => .ok ⟨[ch], sh, ush⟩
    | .error e => .error e

/-- The values of a pair in order; the first error is the pair's (R204, R205, R252). -/
def values (m : TripleMode) : Shift → Bool → List Nat → Except Cause Shown
  | sh, ush, [] => .ok ⟨[], sh, ush⟩
  | sh, ush, c :: cs =>
    match value m sh ush c with
    | .error e => .error e
    | .ok a =>
      match values m a.shift a.ush cs with
      | .error e => .error e
      | .ok b => .ok ⟨a.out ++ b.out, b.shift, b.ush⟩

/-- A pair of bytes: the unpacking (R201), then its values. -/
def pair (m : TripleMode) (sh : Shift) (ush : Bool) (b1 b2 : Nat) : Except Cause Shown :=
  let w := b1 * 256 + b2
  if w = 0 then .error .tripleZero
  else
    let v := w - 1
    let r := v - v / 1600 * 1600
    values m sh ush [v / 1600, r / 40, r - r / 40 * 40]

/-- The loop of `TripleSegment(m)` (R200). -/
def tripleSegment (m : TripleMode) : Nat → Shift → Bool → Flow → Except Halt Flow
  | 0, _, _, _ => .error .outOfFuel
  | k + 1, sh, ush, f =>
    if f.rest.length = 8 then .ok f
    else do
      let (b1, f) ← read 8 f
      if b1 = 254 then .ok f
      else do
        let (b2, f) ← read 8 f
        match pair m sh ush b1 b2 with
        | .error c => fail c
        | .ok a =>
          let f := put a.out f
          if f.rest.length = 0 then .ok f else tripleSegment m k a.shift a.ush f

/-! ## Sixbit (45_sixbit.md) -/

/-- The values of a group still to read; the answer says whether the unlatch was met (R270). -/
def sixbitGroup : Nat → Flow → Except Halt (Bool × Flow)
  | 0, f => .ok (false, f)
  | j + 1, f => do
    let (e, f) ← read 6 f
    if e = 31 then .ok (true, f)
    else if e < 32 then sixbitGroup j (put [e + 64] f)
    else sixbitGroup j (put [e] f)

/-- What an unlatch with SIXBIT_REALIGN = 1 adds (R126, R271); nothing for this hardware. -/
def realigned (f : Flow) : Flow :=
  if sixbitRealign = true ∧ f.pos % 8 ≠ 0 then
    { f with pos := f.pos + (8 - f.pos % 8), rest := f.rest.drop (8 - f.pos % 8) }
  else f

/-- The loop of `SixbitSegment()` (R270). -/
def sixbitSegment : Nat → Flow → Except Halt Flow
  | 0, _ => .error .outOfFuel
  | k + 1, f =>
    if f.rest.length ≤ 16 then .ok f
    else do
      let (unlatched, f) ← sixbitGroup 4 f
      if unlatched then .ok (realigned f)
      else if f.rest.length = 0 then .ok f
      else sixbitSegment k f

/-! ## RawBytes (46_rawbytes.md) -/

/-- `Derandomize(w, p) = (w - PseudoRandom(p)) mod 256` (R290, the equivalent form). -/
def unmask (w p : Nat) : Nat := (w + 256 - (149 * p % 255 + 1)) % 256

/-- The counted bytes (R297). -/
def rawRun : Nat → Nat → List Nat → Flow → Except Halt (List Nat × Flow)
  | 0, _, acc, f => .ok (acc, f)
  | j + 1, p, acc, f => do
    let (w, f) ← read 8 f
    rawRun j (p + 1) (acc ++ [unmask w p]) f

/-- The counted bytes, their entry in SEGS and their text (R299, R300). -/
def rawFinish (cnt p : Nat) (f : Flow) : Except Halt Flow := do
  let (seg, f) ← rawRun cnt p [] f
  .ok (put seg { f with segs := f.segs ++ [seg] })

/-- `RawBytesSegment()` (R293); `p` is `CodewordPosition()` at entry (R301). -/
def rawSegment (f : Flow) : Except Halt Flow := do
  let p := codewordPositionAt cwposRound f.pos
  let (w1, f) ← read 8 f
  let d1 := unmask w1 p
  if d1 = 0 then rawFinish (f.rest.length / 8) (p + 1) f
  else if d1 < 250 then rawFinish d1 (p + 1) f
  else do
    let (w2, f) ← read 8 f
    rawFinish (250 * (d1 - 249) + unmask w2 (p + 1)) (p + 2) f
where
  /-- `CodewordPosition()` (R122). -/
  codewordPositionAt (r : Rounding) (pos : Nat) : Nat :=
    match r with
    | .up => (pos + 7) / 8 + 1
    | .down => pos / 8 + 1

/-! ## The dispatch loop (41_dispatch.md R140) -/

/-- One decoder, and the mode after it. -/
def segment (fuel : Nat) (m : Mode) (f : Flow) : Except Halt (Mode × Flow) :=
  match m with
  | .ascii => asciiSegment fuel false f
  | .c40 => do let f ← tripleSegment .c40 fuel .s0 false f; .ok (.ascii, f)
  | .text => do let f ← tripleSegment .text fuel .s0 false f; .ok (.ascii, f)
  | .x12 => do let f ← tripleSegment .x12 fuel .s0 false f; .ok (.ascii, f)
  | .edf => do let f ← sixbitSegment fuel f; .ok (.ascii, f)
  | .b256 => do let f ← rawSegment f; .ok (.ascii, f)
  | .pad => .ok (.pad, f)

/-- The loop of `Decode()`: `fuel` bounds each decoder's loop, the second number this loop. -/
def dispatch (fuel : Nat) : Nat → Mode → Flow → Except Halt Flow
  | 0, _, _ => .error .outOfFuel
  | k + 1, m, f =>
    if m = .pad ∨ f.rest.length = 0 then .ok { f with text := f.text ++ f.trl }
    else do
      let (m', f') ← segment fuel m f
      dispatch fuel k m' f'

/-- What the host gets of a decode: the text and the segments, or the cause of the Format Error. -/
structure Output where
  text : List Nat
  segs : List (List Nat)
  deriving DecidableEq, Repr

/-- `Decode(CW)`. -/
def decodeBuffer (bs : List Byte) : Except Halt Output := do
  let fuel := (streamBits bs).length + 1
  let f ← dispatch fuel (2 * fuel) .ascii ⟨0, streamBits bs, [], [], []⟩
  .ok ⟨f.text, f.segs⟩

end Sys2Proof.Fn
end

