-- ==== Sys2Proof/Config.lean ====
section
/-! DEFINITION. What the spec leaves open for each implementation (00_scope.md R6, the row marked OPEN). The parameters that
have a value for this hardware stand in Sys2Proof/Machine/Params.lean. -/

namespace Sys2Proof.Config

/-- N_MAX, the largest buffer the implementation accepts, or `none` for no bound (R6, D3; 91_not_in_source.md N5: to be taken as a
parameter). It has no value here: no proof can lean on one. -/
opaque nMax : Option Nat

/-- Whether a buffer of `n` bytes is accepted: `0 <= N <= N_MAX` (R6). -/
def accepts (n : Nat) : Bool :=
  match nMax with
  | none => true
  | some m => decide (n ≤ m)

end Sys2Proof.Config
end

