-- ==== Sys2Proof/Machine/HostPort.lean ====
section
/-! DEFINITION. The host's five actions (70_reset_and_hazards.md R380 to R387) and the result assembler (47_result.md R320 to R326). They are not steps
of the block (log 6). What the spec tells a model to refuse (93_implementation_defined.md U2, U3, U4, U6) is refused (log 7). -/

namespace Sys2Proof.Machine

/-- The buffer and its length in place (R380). -/
def loadBuffer (bs : List Byte) (s : State) : State :=
  { s with cw := Memory.ofBytes bs, n := bs.length, supplied := true }

/-- `supply(CW, N)`: allowed unless BUSY, `N <= N_MAX` (R380, R385, R387). The outputs of an invocation that has ended keep their values
(R320, R383; log 18). -/
def supply (bs : List Byte) (s : State) : Host.Outcome State Fault Refusal :=
  if s.run = .busy then .refused .hostWhileBusy
  else if Config.accepts bs.length then
    .next (loadBuffer bs s)
  else .refused .bufferTooLarge

/-- The per-invocation reset (R381; 10_state.md R35). CW, N and the working registers are left as they are; RES.raw is dropped with the rest
of the earlier result (log 18). -/
def launched (s : State) : State :=
  { s with
    pos := 0, mode := .ascii, phase := .loop
    text := [], trl := [], segs := []
    ush := false, shift := .s0
    err := .clear, run := .busy, raw := [] }

/-- `launch`: allowed unless BUSY, after a supply (R380, R384, R387). -/
def launch (s : State) : Host.Outcome State Fault Refusal :=
  if s.run = .busy then .refused .hostWhileBusy
  else if s.supplied then .next (launched s)
  else .refused .noBuffer

/-- What `status` returns: RUN always, and ERR when RUN = ERROR (R380). -/
structure Status where
  run : RunStatus
  err : Option ErrReg
  deriving DecidableEq, Repr

/-- `status` (R380). -/
def status (s : State) : Status where
  run := s.run
  err := if s.run = .error then some s.err else none

/-- The Result (47_result.md R320). -/
structure Result where
  /-- RES.text (R321). -/
  text : List Char16
  /-- RES.segments: absent exactly when SEGS is empty (R322). -/
  segments : Option (List (List Byte))
  /-- RES.raw: the decoded buffer, unchanged (R323). -/
  raw : List Byte
  /-- RES.sa: always absent (R324). -/
  sa : StructuredAppend
  deriving DecidableEq, Repr

/-- SEGS, or "absent" when it is empty (R322). -/
def segmentsOut (segs : List (List Byte)) : Option (List (List Byte)) :=
  match segs with
  | [] => none
  | _ :: _ => some segs

/-- The result a completed machine presents. RES.raw is the copy made at completion, so that a later `supply` does not change an output before the
next launch (R320, R383; log 18). -/
def resultOf (s : State) : Result where
  text := s.text
  segments := segmentsOut s.segs
  raw := s.raw
  sa := s.sa

/-- `read result`: only when RUN = DONE (R380, R386; 47_result.md R325). -/
def readResult (s : State) : Option Result := if s.run = .done then some (resultOf s) else none

/-- `read CW`: after an invocation has ended (R380: not while BUSY; R35, R380's power-on sentence and D2: nothing but RUN and ERR is readable in
IDLE, also after a supply; log 19). -/
def readCw (s : State) : Option (List Byte) :=
  match s.run with
  | .idle => none
  | .busy => none
  | .done => some s.cw.bytes
  | .error => some s.cw.bytes

end Sys2Proof.Machine
end

