-- ==== Sys2Proof/Safety.lean ====
section
/-! DEFINITION. The terms in which claims speak of runs: a run of k steps, an invocation from its launch, its outcome, the invariant of every
reachable state (10_state.md R36), and the bounds on the accumulators (20_memory.md R73). -/

namespace Sys2Proof.Machine

/-- `k` steps, stopping at the first fault or refusal. -/
def steps : Nat → State → Host.Outcome State Fault Refusal
  | 0, s => .next s
  | k + 1, s =>
    match step s with
    | .next t => steps k t
    | .fault f => .fault f
    | .refused r => .refused r

/-- An invocation has ended (70_reset_and_hazards.md R383). -/
def Finished (s : State) : Prop := s.run = .done ∨ s.run = .error

/-- The machine just launched over a buffer, whatever it was before (R380, R381). -/
def invoked (bs : List Byte) (s : State) : State := launched (loadBuffer bs s)

/-- What the host can learn of a machine: the answers of `status`, `read result` and `read CW` (R380; 47_result.md R325). -/
structure Observed where
  status : Status
  result : Option Result
  buffer : Option (List Byte)
  deriving DecidableEq, Repr

/-- What the host observes of a state. -/
def observe (s : State) : Observed := ⟨status s, readResult s, readCw s⟩

/-- The outcome of a finished machine in the terms of the pure function (00_scope.md R5). -/
def outcomeOf (s : State) : Except Fn.Halt Fn.Output :=
  match s.err.cause with
  | some c => .error (.raised c)
  | none => .ok ⟨s.text.map BitVec.toNat, s.segs.map fun seg => seg.map BitVec.toNat⟩

/-! ## The invariant -/

/-- The buffer lists exactly the indices `0 .. N-1` (R20, R21). -/
abbrev BufferFilled (s : State) : Prop := s.cw.map Prod.fst = List.range s.n

/-- `POS <= 8N` (R22, R36a). -/
abbrev CursorInside (s : State) : Prop := s.pos ≤ 8 * s.n

/-- A decoder is active only under its own MODE (41_dispatch.md R148). -/
def phaseAgrees (s : State) : Bool :=
  match s.phase with
  | .loop => true
  | .ascii => decide (s.mode = .ascii)
  | .triple m => decide (s.mode = m.mode)
  | .sixbit _ => decide (s.mode = .edf)
  | .rawHeader => decide (s.mode = .b256)
  | .rawData => decide (s.mode = .b256)

/-- No character exceeds 264 (R36f; 43_base40.md R234). -/
abbrev CharsBounded (s : State) : Prop := ∀ ch ∈ s.text ++ s.trl, ch.toNat ≤ 264

/-- TRL is a number of whole trailers (R36e). -/
abbrev TrailerWhole (s : State) : Prop :=
  s.trl = (List.replicate (s.trl.length / macroTrailer.length) (macroTrailer.map (BitVec.ofNat 16))).flatten

/-- ERR holds a Format Error with a cause exactly when RUN = ERROR, and the cause is never `B256_LENGTH` (R31; 60_exceptions.md R351,
R356, R361). -/
def errorRecorded (s : State) : Bool :=
  match s.run with
  | .error => decide (s.err.kind = .format) && s.err.cause.isSome && decide (s.err.cause ≠ some .b256Length)
  | _ => decide (s.err = .clear)

/-- Inside RawBytes, P is the position of the next byte (46_rawbytes.md R301), and SEGBUF holds at most CNT bytes. -/
def runTracked (s : State) : Bool :=
  match s.phase with
  | .rawHeader => decide (s.p = codewordPosition s)
  | .rawData => decide (s.p = codewordPosition s) && decide (s.segbuf.length ≤ s.cnt)
  | _ => true

/-- A busy machine has a buffer the host supplied (R380). -/
abbrev BusyHasBuffer (s : State) : Prop := s.run = .busy → s.supplied = true

/-- The invariant. -/
abbrev Inv (s : State) : Prop :=
  BufferFilled s ∧ CursorInside s ∧ phaseAgrees s = true ∧ CharsBounded s ∧ TrailerWhole s ∧
    errorRecorded s = true ∧ runTracked s = true ∧ BusyHasBuffer s

/-! ## Capacity (R73) -/

/-- The bytes extracted for the segment in progress. -/
def pendingBytes (s : State) : Nat :=
  match s.phase with
  | .rawData => s.segbuf.length
  | _ => 0

/-- The characters held: TEXT, the trailer until it is appended, and the text of the segment in progress. -/
def heldChars (s : State) : Nat :=
  s.text.length + (if s.run = .done then 0 else s.trl.length) + pendingBytes s

/-- The bytes of all segments, the one in progress included. -/
def heldBytes (s : State) : Nat := (s.segs.map List.length).sum + pendingBytes s

/-- The bits a RawBytes segment that is not yet appended has already taken for its latch and its header. -/
def segmentCredit (s : State) : Nat :=
  match s.phase with
  | .loop => if s.mode = .b256 then 8 else 0
  | .rawHeader => 8
  | .rawData => 16
  | _ => 0

/-- R73 as an invariant over the bits consumed: nine characters, one segment byte, half a segment for each byte. -/
abbrev Capacity (s : State) : Prop :=
  8 * heldChars s ≤ 9 * s.pos ∧ 8 * heldBytes s ≤ s.pos ∧ 16 * s.segs.length + segmentCredit s ≤ s.pos

/-! ## What is read around a unit -/

/-- Run `f` on the next state, unless a Format Error ended the invocation: "A procedure that raises never returns" (00_scope.md R9). -/
def andThen (o : Host.Outcome State Fault Refusal) (f : State → Host.Outcome State Fault Refusal) :
    Host.Outcome State Fault Refusal :=
  match o with
  | .next t => if t.run = .busy then f t else .next t
  | .fault r => .fault r
  | .refused r => .refused r

/-- The state in which the machine reads a unit of context `c` whose first byte stands at 1-based position `p`: the procedure that reads it
is active and its end tests let it read. -/
def readsAt (c : Ctx) (p : Nat) (s : State) : Prop :=
  match c with
  | .ascii => s.phase = .ascii
  | .unlatch m => s.phase = .triple m ∧ available s ≠ 8
  | .pair m => s.phase = .triple m
  | .header1 => s.phase = .rawHeader ∧ s.p = p
  | .header2 => s.phase = .rawHeader ∧ s.p = p
  | .data => s.phase = .rawData ∧ s.p = p ∧ s.segbuf.length < s.cnt
  | .value _ _ => False
  | .valueX12 => False
  | .sixbit => False

/-- The state after a unit of whole bytes with value `v` has been read and before it acts: POS has moved past it, and the working
registers hold what was read (R26); P is counted up by one for each RawBytes byte (46_rawbytes.md R301). -/
def afterRead (c : Ctx) (v : Nat) (s : State) : State :=
  match c with
  | .ascii => { s with pos := s.pos + 8, b1 := BitVec.ofNat 8 v }
  | .unlatch _ => { s with pos := s.pos + 8, b1 := BitVec.ofNat 8 v }
  | .pair _ => { s with pos := s.pos + 16, b1 := highByte v, b2 := lowByte v }
  | .header1 => { s with pos := s.pos + 8, p := s.p + 1, d1 := BitVec.ofNat 8 v }
  | .header2 => { s with pos := s.pos + 16, p := s.p + 2, d1 := highByte v, d2 := lowByte v }
  | .data => { s with pos := s.pos + 8, p := s.p + 1 }
  | .value _ _ => s
  | .valueX12 => s
  | .sixbit => s

/-- The values a context admits: those its format's width and its place in the stream allow (30_encoding.md R91 to R95). -/
def admits (c : Ctx) (v : Nat) : Prop :=
  match c with
  | .ascii => v < 256
  | .unlatch _ => v = 254
  | .pair _ => v < 65536 ∧ v / 256 ≠ 254
  | .value _ _ => v ≤ 40
  | .valueX12 => v ≤ 40
  | .sixbit => v < 64
  | .header1 => v < 250
  | .header2 => 64000 ≤ v ∧ v < 65536
  | .data => v < 256

/-! ## Relations between a state and a later one -/

/-- What no step and no unit writes: CW, N, SA, and the host's flag (R21, R32; 20_memory.md R67). -/
abbrev SameBuffer (s t : State) : Prop :=
  t.cw = s.cw ∧ t.n = s.n ∧ t.supplied = s.supplied ∧ t.sa = s.sa

/-- POS does not decrease, the accumulators only grow (R36b, R36c). -/
abbrev Grows (s t : State) : Prop :=
  s.pos ≤ t.pos ∧ s.text <+: t.text ∧ s.trl <:+ t.trl ∧ s.segs <+: t.segs

/-- The edges of the mode graph (41_dispatch.md R145): ASCII to the others, the others but PAD to ASCII. -/
def modeEdge (a b : Mode) : Bool :=
  match a, b with
  | .ascii, _ => true
  | .pad, .pad => true
  | .pad, _ => false
  | _, .ascii => true
  | a, b => decide (a = b)

end Sys2Proof.Machine
end

