-- ==== Sys2Proof/Certificates/Slice0/Obligations.lean ====
section
/-! DEFINITION. The statements for the provers. Each says in its docstring which rule of spec/ it formalises. Where a clause speaks of `phase`, it
speaks of the model's own element for "which procedure is active" (41_dispatch.md R148; log 2). -/

open Sys2Proof Sys2Proof.Machine

/-! ## Encoding -/

/-- A few words written out from the encodings of 30_encoding.md. -/
def Obligations.WrittenOutWordsDecode : Prop :=
  decode .ascii 0b10000001 = .ok .aPad ∧
  decode .ascii 0b11100110 = .ok .aLc40 ∧
  decode (.unlatch .x12) 0b11111110 = .ok .xUnl ∧
  decode (.pair .c40) 0b0101100111101001 = .ok (.cPair 89 233) ∧
  decode (.value .text .s2) 0b011110 = .ok .tS2u ∧
  decode .sixbit 0b011111 = .ok .eUnl ∧
  decode .header2 0b1111101000000101 = .ok (.bLen2 250 5)

/-- Decoding the value of a well-formed unit in its context gives the unit back, for every unit and every operand value. -/
def Obligations.DecodeInvertsEncode : Prop :=
  ∀ i : Instr, i.wf = true → decode i.ctx (encode i) = .ok i

/-- "The maps are total and disjoint: every value of every format under every mode has exactly one row" (30_encoding.md R109); what no format
delivers is rejected by name. -/
def Obligations.EveryValueHasExactlyOneRow : Prop :=
  ∀ (c : Ctx) (v : Nat),
    (admits c v →
      ∃ i : Instr, decode c v = .ok i ∧ i.wf = true ∧ i.ctx = c ∧ encode i = v ∧
        ∀ j : Instr, j.wf = true → j.ctx = c → encode j = v → j = i) ∧
    (¬ admits c v → ∃ r : Reject, decode c v = .error r)

/-- The bytes of a well-formed unit, laid out in the buffer where the cursor stands (RawBytes bytes randomized at their positions), are read
back and run: memory, bit order, derandomizer and decoder together. -/
def Obligations.EncodedBytesAtTheCursorRun : Prop :=
  ∀ (i : Instr) (bs : List Byte) (k : Nat) (s : State),
    i.wf = true → encodeBytes (k + 1) i = some bs → s.run = .busy → s.pos = 8 * k →
    (∀ j : Nat, j < bs.length → s.cw.read (k + j) = bs[j]?) → k + bs.length ≤ s.n →
    readsAt i.ctx (k + 1) s →
      step s = exec i (afterRead i.ctx (encode i) s)

/-- The four values of a group whose three bytes stand at byte index `k` are read back in order, six bits each (30_encoding.md R94). -/
def Obligations.SixbitGroupReadsBack : Prop :=
  ∀ (m : Memory) (k : Nat) (e1 e2 e3 e4 : Val),
    (∀ j : Nat, j < 3 → m.read (k + j) = (groupBytes [e1, e2, e3, e4])[j]?) →
      memRead m (8 * k) 6 = some e1.toNat ∧ memRead m (8 * k + 6) 6 = some e2.toNat ∧
      memRead m (8 * k + 12) 6 = some e3.toNat ∧ memRead m (8 * k + 18) 6 = some e4.toNat

/-- The packing and the unpacking of a triple are inverse to each other (30_encoding.md R92; 43_base40.md R201). -/
def Obligations.UnpackInvertsPack : Prop :=
  (∀ t : Triple, t.c1.toNat ≤ 40 → t.c2.toNat ≤ 39 → t.c3.toNat ≤ 39 → pack3 t ≤ 65535 →
    unpack3 (pairBytes t).1 (pairBytes t).2 = some t) ∧
  (∀ (b1 b2 : Byte) (t : Triple), unpack3 b1 b2 = some t →
    pack3 t = b1.toNat * 256 + b2.toNat ∧ t.c1.toNat ≤ 40 ∧ t.c2.toNat ≤ 39 ∧ t.c3.toNat ≤ 39) ∧
  (∀ b1 b2 : Byte, unpack3 b1 b2 = none ↔ b1 = 0 ∧ b2 = 0)

/-- `PseudoRandom(p)` lies in 1 to 255 and has period 255; `Derandomize` is the subtraction modulo 256 and undoes `RAND` at every
position (46_rawbytes.md R290 to R292). -/
def Obligations.DerandomizeInvertsRandomize : Prop :=
  (∀ p : Nat, pseudoRandom p = 149 * p % 255 + 1 ∧ 1 ≤ pseudoRandom p ∧ pseudoRandom p ≤ 255 ∧
    pseudoRandom (p + 255) = pseudoRandom p) ∧
  (∀ (x : Byte) (p : Nat), derandomize (randomize x p) p = x ∧ randomize (derandomize x p) p = x) ∧
  (∀ (w : Byte) (p : Nat),
    (derandomize w p).toNat =
      if 149 * p % 255 + 1 ≤ w.toNat then w.toNat - (149 * p % 255 + 1) else w.toNat + 256 - (149 * p % 255 + 1))

/-! ## The cursor -/

/-- `MemRead(a, n)` is the sum over `k` of `s[a+k] * 2^(n-1-k)`, with `s[8i+j]` bit `7-j` of `CW[i]`; so an 8-bit read at a byte boundary returns
`CW[i]`, and off it the tail of one byte and the head of the next (20_memory.md R61; 00_scope.md R7). -/
def Obligations.MemReadIsTheSumOfItsBits : Prop :=
  (∀ (m : Memory) (f : Nat → Byte) (a n : Nat),
    (∀ k : Nat, k < n → m.read ((a + k) / 8) = some (f ((a + k) / 8))) →
      memRead m a n =
        some (∑ k ∈ Finset.range n, ((f ((a + k) / 8)).getLsbD (7 - (a + k) % 8)).toNat * 2 ^ (n - 1 - k))) ∧
  ∀ (m : Memory) (i : Nat) (x : Byte), m.read i = some x →
    memRead m (8 * i) 8 = some x.toNat ∧
    ∀ (j : Nat) (y : Byte), 0 < j → j < 8 → m.read (i + 1) = some y →
      memRead m (8 * i + j) 8 = some ((x <<< j) ||| (y >>> (8 - j))).toNat

/-- `ReadBits(n)` (40_bitcursor.md R120): with fewer than `n` bits left it raises with nothing consumed; else it returns `MemRead(POS, n)`, an
`n`-bit integer, and moves POS by `n`, and nothing else. R120 gives this for the widths its decoders use; R124 says nothing about `n = 0` and
`n > 8`, where the formula is the model's choice (log 15). -/
def Obligations.ReadBitsIsBounded : Prop :=
  ∀ (n : Nat) (s : State), BufferFilled s → CursorInside s →
    (8 * s.n - s.pos < n → readBits n s = .error (.raised .outOfData s)) ∧
    (n ≤ 8 * s.n - s.pos → ∃ v : Nat, v < 2 ^ n ∧ memRead s.cw s.pos n = some v ∧
      readBits n s = .ok (v, { s with pos := s.pos + n }))

/-- `Realign()`, reached through an unlatch with SIXBIT_REALIGN = 1, discards to the next byte boundary and cannot run out of data
(40_bitcursor.md R126); with SIXBIT_REALIGN = 0 nothing is discarded. Stated for both values of the parameter (D12). -/
def Obligations.SixbitUnlatchForBothRealignValues : Prop :=
  ∀ s : State, BufferFilled s → CursorInside s →
    sixbitUnlatch true s = .ok { s with pos := (s.pos + 7) / 8 * 8, mode := .ascii, phase := .loop } ∧
    sixbitUnlatch false s = .ok { s with mode := .ascii, phase := .loop }

/-- Where fewer bits remain than a read of the active decoder needs, the step raises `OUT_OF_DATA` with nothing consumed: an ASCII codeword or
the first byte of a pair with 1 to 7 bits left, a later value of a Sixbit group with fewer than 6, a RawBytes header byte or
data byte with fewer than 8 (40_bitcursor.md R120; 60_exceptions.md R352). Where the second of two reads is the one that fails, the
first has moved POS by 8 and filled its register, and the second consumes nothing: the second byte of a pair with 9 to 15 bits left
before the first (R125; 43_base40.md R200), the second header byte with 8 to 15 (46_rawbytes.md R296). -/
def Obligations.ShortReadsRaiseOutOfData : Prop :=
  ∀ s : State, s.run = .busy →
    (((s.phase = .ascii ∧ 0 < available s ∧ available s < 8) ∨
      (∃ m, s.phase = .triple m ∧ 0 < available s ∧ available s < 8) ∨
      (∃ k, s.phase = .sixbit k ∧ k ≠ 0 ∧ available s < 6) ∨
      (s.phase = .rawHeader ∧ available s < 8) ∨
      (s.phase = .rawData ∧ s.segbuf.length < s.cnt ∧ available s < 8)) →
        step s = .next { s with run := .error, err := ⟨.format, some .outOfData⟩ }) ∧
    (∀ x : Nat, (∃ m, s.phase = .triple m) → 8 < available s → available s < 16 →
      memRead s.cw s.pos 8 = some x → x ≠ 254 →
        step s = .next { s with
          pos := s.pos + 8, b1 := BitVec.ofNat 8 x, run := .error, err := ⟨.format, some .outOfData⟩ }) ∧
    (∀ w : Nat, s.phase = .rawHeader → 8 ≤ available s → available s < 16 → memRead s.cw s.pos 8 = some w →
      250 ≤ (derandomize (BitVec.ofNat 8 w) s.p).toNat →
        step s = .next { s with
          pos := s.pos + 8, p := s.p + 1, d1 := derandomize (BitVec.ofNat 8 w) s.p
          run := .error, err := ⟨.format, some .outOfData⟩ })

/-- A step outside a Sixbit segment moves POS by whole bytes only (10_state.md R22). -/
def Obligations.OnlySixbitMisalignsTheCursor : Prop :=
  ∀ s t : State, step s = .next t → (∀ k, s.phase ≠ .sixbit k) → t.pos % 8 = s.pos % 8

/-! ## The ASCII units -/

/-- `A.LIT` (42_ascii.md R161). That the decoder goes on in its loop is the spec's decision D23 (phase: log 2). -/
def Obligations.AsciiLiteralEmitsItsCharacter : Prop :=
  (∀ cw : Nat, 1 ≤ cw → cw ≤ 128 → decode .ascii cw = .ok (.aLit (BitVec.ofNat 7 (cw - 1)))) ∧
  ∀ (ch : BitVec 7) (s : State),
    exec (.aLit ch) s =
      .next { s with
        text := s.text ++ [BitVec.ofNat 16 (if s.ush then ch.toNat + 1 + 127 else ch.toNat)], ush := false }

/-- `A.DIG2` (42_ascii.md R164): always two characters, both decimal digits. -/
def Obligations.AsciiDigitPairEmitsTwoDigits : Prop :=
  ∀ cw : Nat, 130 ≤ cw → cw ≤ 229 →
    ∃ dd : BitVec 7, decode .ascii cw = .ok (.aDig2 dd) ∧ dd.toNat = cw - 130 ∧
      ∀ s : State, ∃ x y : Char16,
        exec (.aDig2 dd) s = .next { s with text := s.text ++ [x, y] } ∧
        10 * (x.toNat - 48) + (y.toNat - 48) = dd.toNat ∧
        48 ≤ x.toNat ∧ x.toNat ≤ 57 ∧ 48 ≤ y.toNat ∧ y.toNat ≤ 57

/-- `A.FNC1` (42_ascii.md R167) emits character 29; `A.USH` (R170) sets the flag; `A.SAPP`, `A.RDRP`, `A.ECI` (R168, R169, R176) do nothing. -/
def Obligations.Fnc1UpperShiftAndMarkers : Prop :=
  decode .ascii 232 = .ok .aFnc1 ∧ decode .ascii 233 = .ok .aSapp ∧ decode .ascii 234 = .ok .aRdrp ∧
  decode .ascii 235 = .ok .aUsh ∧ decode .ascii 241 = .ok .aEci ∧
  ∀ s : State,
    exec .aFnc1 s = .next { s with text := s.text ++ [29] } ∧
    exec .aUsh s = .next { s with ush := true } ∧
    exec .aSapp s = .next s ∧ exec .aRdrp s = .next s ∧ exec .aEci s = .next s

/-- The life of USH inside an ASCII invocation (42_ascii.md R180): only `A.USH` sets it, only `A.LIT` consumes it. -/
def Obligations.OnlyLiteralsConsumeAsciiUpperShift : Prop :=
  ∀ (i : Instr) (s t : State), i.ctx = .ascii → i.wf = true → exec i s = .next t → t.ush ≠ s.ush →
    (i = .aUsh ∧ t.ush = true) ∨ (∃ ch, i = .aLit ch ∧ t.ush = false)

/-- `A.M05`, `A.M06` (42_ascii.md R171, R172), in terms of the parameters MACRO05_HEADER, MACRO06_HEADER, MACRO_TRAILER. -/
def Obligations.MacrosEmitHeaderAndDeferTrailer : Prop :=
  decode .ascii 236 = .ok .aM05 ∧ decode .ascii 237 = .ok .aM06 ∧
  ∀ s : State,
    exec .aM05 s =
      .next { s with
        text := s.text ++ macro05Header.map (BitVec.ofNat 16), trl := macroTrailer.map (BitVec.ofNat 16) ++ s.trl } ∧
    exec .aM06 s =
      .next { s with
        text := s.text ++ macro06Header.map (BitVec.ofNat 16), trl := macroTrailer.map (BitVec.ofNat 16) ++ s.trl }

/-- The five latches and Pad (42_ascii.md R163, R165, R166, R173 to R175): the mode is returned to the dispatch loop (41_dispatch.md R142; phase: log 2),
nothing else changes. -/
def Obligations.LatchesAndPadReturnTheirMode : Prop :=
  decode .ascii 129 = .ok .aPad ∧ decode .ascii 230 = .ok .aLc40 ∧ decode .ascii 231 = .ok .aLb256 ∧
  decode .ascii 238 = .ok .aLx12 ∧ decode .ascii 239 = .ok .aLtxt ∧ decode .ascii 240 = .ok .aLedf ∧
  ∀ s : State,
    exec .aPad s = .next { s with mode := .pad, phase := .loop } ∧
    exec .aLc40 s = .next { s with mode := .c40, phase := .loop } ∧
    exec .aLb256 s = .next { s with mode := .b256, phase := .loop } ∧
    exec .aLx12 s = .next { s with mode := .x12, phase := .loop } ∧
    exec .aLtxt s = .next { s with mode := .text, phase := .loop } ∧
    exec .aLedf s = .next { s with mode := .edf, phase := .loop }

/-- `A.INV0`, `A.INV242`, `A.INV255` (42_ascii.md R162, R177, R179): each always takes the abort with its own cause. `A.END254` (R178): tolerated with
no bit left, an error with any bit left. -/
def Obligations.IllegalAsciiCodewordsRaise : Prop :=
  decode .ascii 0 = .ok .aInv0 ∧ decode .ascii 254 = .ok .aEnd254 ∧ decode .ascii 255 = .ok .aInv255 ∧
  (∀ cw : Nat, 242 ≤ cw → cw ≤ 253 → decode .ascii cw = .ok (.aInv242 (BitVec.ofNat 8 cw))) ∧
  ∀ s : State,
    exec .aInv0 s = .next { s with run := .error, err := ⟨.format, some .asciiZero⟩ } ∧
    exec .aInv255 s = .next { s with run := .error, err := ⟨.format, some .ascii255⟩ } ∧
    (∀ cw : Byte, exec (.aInv242 cw) s = .next { s with run := .error, err := ⟨.format, some .asciiReserved⟩ }) ∧
    (available s = 0 → exec .aEnd254 s = .next s) ∧
    (available s ≠ 0 → exec .aEnd254 s = .next { s with run := .error, err := ⟨.format, some .ascii254⟩ })

/-! ## The triple modes -/

/-- `C.UNL`, `T.UNL`, `X.UNL` (43_base40.md R202, R203; 44_x12.md R251): the segment returns and MODE becomes ASCII. -/
def Obligations.UnlatchByteReturnsToAscii : Prop :=
  ∀ m : TripleMode,
    decode (.unlatch m) 254 = .ok (unlatchUnit m) ∧
    ∀ s : State, exec (unlatchUnit m) s = .next { s with mode := .ascii, phase := .loop }

/-- `C.SH`, `T.SH` (43_base40.md R210, R220): `SHIFT <- c + 1`, nothing emitted, USH untouched. -/
def Obligations.ShiftValuesSelectTheNextSet : Prop :=
  ∀ c : Val, c.toNat ≤ 2 →
    decode (.value .c40 .s0) c.toNat = .ok (.cSh c) ∧ decode (.value .text .s0) c.toNat = .ok (.tSh c) ∧
    ∃ sh : Shift, sh.code.toNat = c.toNat + 1 ∧
      ∀ s : State, exec (.cSh c) s = .next { s with shift := sh } ∧ exec (.tSh c) s = .next { s with shift := sh }

/-- The basic sets (43_base40.md R211, R221): space, digits, upper-case or lower-case letters, through USH. -/
def Obligations.BasicSetsEmitSpaceDigitsLetters : Prop :=
  ∀ c : Val, 3 ≤ c.toNat → c.toNat ≤ 39 →
    decode (.value .c40 .s0) c.toNat = .ok (.cBas c) ∧ decode (.value .text .s0) c.toNat = .ok (.tBas c) ∧
    ∀ s : State, ∃ x y : Nat,
      exec (.cBas c) s =
        .next { s with text := s.text ++ [BitVec.ofNat 16 (if s.ush then x + 128 else x)], ush := false } ∧
      exec (.tBas c) s =
        .next { s with text := s.text ++ [BitVec.ofNat 16 (if s.ush then y + 128 else y)], ush := false } ∧
      (c.toNat = 3 → x = 32 ∧ y = 32) ∧
      (4 ≤ c.toNat → c.toNat ≤ 13 → x = c.toNat + 44 ∧ y = c.toNat + 44) ∧
      (14 ≤ c.toNat → x = c.toNat + 51 ∧ y = c.toNat + 83)

/-- The values no table holds: `C.BASX`, `T.BASX`, `C.S2X`, `T.S2X`, `T.S3X`, `X.INV` (43_base40.md R212, R217, R222, R227, R229; 44_x12.md
R259) take the abort, each with its cause. -/
def Obligations.ValuesOutsideTheTablesRaise : Prop :=
  (decode (.value .c40 .s0) 40 = .ok .cBasx ∧ decode (.value .text .s0) 40 = .ok .tBasx ∧
    decode .valueX12 40 = .ok .xInv) ∧
  (∀ c : Val, (c.toNat = 28 ∨ c.toNat = 29 ∨ (31 ≤ c.toNat ∧ c.toNat ≤ 40)) →
    decode (.value .c40 .s2) c.toNat = .ok (.cS2x c) ∧ decode (.value .text .s2) c.toNat = .ok (.tS2x c)) ∧
  (∀ c : Val, 32 ≤ c.toNat → c.toNat ≤ 40 → decode (.value .text .s3) c.toNat = .ok (.tS3x c)) ∧
  ∀ (s : State) (c : Val),
    exec .cBasx s = .next { s with run := .error, err := ⟨.format, some .b40Basic⟩ } ∧
    exec .tBasx s = .next { s with run := .error, err := ⟨.format, some .b40Basic⟩ } ∧
    exec (.cS2x c) s = .next { s with run := .error, err := ⟨.format, some .b40Shift2⟩ } ∧
    exec (.tS2x c) s = .next { s with run := .error, err := ⟨.format, some .b40Shift2⟩ } ∧
    exec (.tS3x c) s = .next { s with run := .error, err := ⟨.format, some .textShift3⟩ } ∧
    exec .xInv s = .next { s with run := .error, err := ⟨.format, some .x12Value⟩ }

/-- `C.S1`, `T.S1` (43_base40.md R213, R223): the value itself, through USH, and SHIFT back to 0; values 32 to 40 included (the spec's
decision D8). -/
def Obligations.ShiftOneEmitsTheValueItself : Prop :=
  ∀ c : Val, c.toNat ≤ 40 →
    decode (.value .c40 .s1) c.toNat = .ok (.cS1 c) ∧ decode (.value .text .s1) c.toNat = .ok (.tS1 c) ∧
    ∀ s : State,
      exec (.cS1 c) s =
        .next { s with
          text := s.text ++ [BitVec.ofNat 16 (if s.ush then c.toNat + 128 else c.toNat)], ush := false, shift := .s0 } ∧
      exec (.tS1 c) s =
        .next { s with
          text := s.text ++ [BitVec.ofNat 16 (if s.ush then c.toNat + 128 else c.toNat)], ush := false, shift := .s0 }

/-- `C.S2`, `T.S2` (43_base40.md R214, R224) with the table in closed form (30_encoding.md R99; the table is the spec's general knowledge, log
12; USH applies by decision D9). -/
def Obligations.ShiftTwoEmitsPunctuation : Prop :=
  ∀ c : Val, c.toNat ≤ 26 →
    decode (.value .c40 .s2) c.toNat = .ok (.cS2 c) ∧ decode (.value .text .s2) c.toNat = .ok (.tS2 c) ∧
    ∃ x : Nat,
      (c.toNat ≤ 14 → x = c.toNat + 33) ∧
      (15 ≤ c.toNat → c.toNat ≤ 21 → x = c.toNat + 43) ∧
      (22 ≤ c.toNat → x = c.toNat + 69) ∧
      ∀ s : State,
        exec (.cS2 c) s =
          .next { s with
            text := s.text ++ [BitVec.ofNat 16 (if s.ush then x + 128 else x)], ush := false, shift := .s0 } ∧
        exec (.tS2 c) s =
          .next { s with
            text := s.text ++ [BitVec.ofNat 16 (if s.ush then x + 128 else x)], ush := false, shift := .s0 }

/-- FNC1 of shift set 2 (43_base40.md R215, R225; USH left alone by decision D9) and value 30 (R216, R226). -/
def Obligations.ShiftTwoSpecialsResolve : Prop :=
  (∀ m : Base40, decode (.value m .s2) 27 = .ok (match m with | .c40 => .cS2f | .text => .tS2f)) ∧
  (∀ m : Base40, decode (.value m .s2) 30 = .ok (match m with | .c40 => .cS2u | .text => .tS2u)) ∧
  ∀ s : State,
    exec .cS2f s = .next { s with text := s.text ++ [29], shift := .s0 } ∧
    exec .tS2f s = .next { s with text := s.text ++ [29], shift := .s0 } ∧
    exec .cS2u s = .next { s with ush := true, shift := .s0 } ∧
    exec .tS2u s = .next { s with ush := true, shift := .s0 }

/-- Shift set 3: `C.S3` (43_base40.md R218) is `c + 96` for every value, no table and no check; `T.S3` (R228) is a table, here in closed form
(30_encoding.md R100; the table is the spec's general knowledge, log 12). -/
def Obligations.ShiftThreeOfTheTwoModes : Prop :=
  (∀ c : Val, c.toNat ≤ 40 →
    decode (.value .c40 .s3) c.toNat = .ok (.cS3 c) ∧
    ∀ s : State,
      exec (.cS3 c) s =
        .next { s with
          text := s.text ++ [BitVec.ofNat 16 (if s.ush then c.toNat + 96 + 128 else c.toNat + 96)]
          ush := false, shift := .s0 }) ∧
  ∀ c : Val, c.toNat ≤ 31 →
    decode (.value .text .s3) c.toNat = .ok (.tS3 c) ∧
    ∃ x : Nat,
      (c.toNat = 0 → x = 96) ∧
      (1 ≤ c.toNat → c.toNat ≤ 26 → x = c.toNat + 64) ∧
      (27 ≤ c.toNat → x = c.toNat + 96) ∧
      ∀ s : State,
        exec (.tS3 c) s =
          .next { s with
            text := s.text ++ [BitVec.ofNat 16 (if s.ush then x + 128 else x)], ush := false, shift := .s0 }

/-- The X12 characters (44_x12.md R253 to R258): no flag is read or written. -/
def Obligations.X12ValuesEmitTheirCharacters : Prop :=
  (decode .valueX12 0 = .ok .xCr ∧ decode .valueX12 1 = .ok .xStar ∧ decode .valueX12 2 = .ok .xGt ∧
    decode .valueX12 3 = .ok .xSp) ∧
  (∀ s : State,
    exec .xCr s = .next { s with text := s.text ++ [13] } ∧
    exec .xStar s = .next { s with text := s.text ++ [42] } ∧
    exec .xGt s = .next { s with text := s.text ++ [62] } ∧
    exec .xSp s = .next { s with text := s.text ++ [32] }) ∧
  (∀ c : Val, 4 ≤ c.toNat → c.toNat ≤ 13 → decode .valueX12 c.toNat = .ok (.xDig c) ∧
    ∀ s : State, exec (.xDig c) s = .next { s with text := s.text ++ [BitVec.ofNat 16 (c.toNat + 44)] }) ∧
  (∀ c : Val, 14 ≤ c.toNat → c.toNat ≤ 39 → decode .valueX12 c.toNat = .ok (.xLet c) ∧
    ∀ s : State, exec (.xLet c) s = .next { s with text := s.text ++ [BitVec.ofNat 16 (c.toNat + 51)] })

/-- A pair unpacks and then runs the units its three values decode to, each under the shift state the one before left, until one
raises (43_base40.md R204 to R206; 44_x12.md R252); the pair of zeros raises `TRIPLE_ZERO` (decision D10). -/
def Obligations.PairRunsItsValuesInOrder : Prop :=
  ∀ (m : TripleMode) (b1 b2 : Byte) (s : State), s.run = .busy →
    let unit : State → Val → Instr := fun u c =>
      match m with
      | .c40 => decodeBase40 .c40 u.shift c.toNat
      | .text => decodeBase40 .text u.shift c.toNat
      | .x12 => decodeX12 c.toNat
    (∀ t : Triple, unpack3 b1 b2 = some t →
      let s0 := { s with v := BitVec.ofNat 16 (b1.toNat * 256 + b2.toNat - 1), c := t }
      exec (pairUnit m b1 b2) s =
        andThen
          (andThen (exec (unit s0 t.c1) s0) fun s1 => exec (unit s1 t.c2) s1)
          fun s2 => exec (unit s2 t.c3) s2) ∧
    (unpack3 b1 b2 = none →
      exec (pairUnit m b1 b2) s = .next { s with run := .error, err := ⟨.format, some .tripleZero⟩ })

/-- The whole effect of a pair: where the pure function of the spec gives characters and flags, the unit completes with exactly these;
where it gives a cause, the unit takes the abort with that cause. -/
def Obligations.PairEffectIsThePureFunctions : Prop :=
  ∀ (m : TripleMode) (b1 b2 : Byte) (s : State),
    (∀ a : Fn.Shown, Fn.pair m s.shift s.ush b1.toNat b2.toNat = .ok a →
      ∃ t : Triple, unpack3 b1 b2 = some t ∧
        exec (pairUnit m b1 b2) s =
          .next { s with
            v := BitVec.ofNat 16 (b1.toNat * 256 + b2.toNat - 1), c := t
            text := s.text ++ a.out.map (BitVec.ofNat 16), shift := a.shift, ush := a.ush }) ∧
    (∀ e : Cause, Fn.pair m s.shift s.ush b1.toNat b2.toNat = .error e →
      ∃ t : State, exec (pairUnit m b1 b2) s = .next t ∧ t.run = .error ∧ t.err = ⟨.format, some e⟩ ∧
        SameBuffer s t ∧ t.pos = s.pos ∧ t.mode = s.mode ∧ t.phase = s.phase ∧ t.trl = s.trl ∧ t.segs = s.segs)

/-! ## Sixbit -/

/-- `E.LO`, `E.HI` (45_sixbit.md R272, R273): `e + 64` or `e` itself; the group of R270 goes on to its next place (phase: log 2). -/
def Obligations.SixbitValuesEmitTheirCharacters : Prop :=
  (∀ e : Val, e.toNat ≤ 30 → decode .sixbit e.toNat = .ok (.eLo e) ∧
    ∀ s : State, exec (.eLo e) s =
      .next { s with
        text := s.text ++ [BitVec.ofNat 16 (e.toNat + 64)]
        phase := match s.phase with | .sixbit k => .sixbit (k + 1) | ph => ph }) ∧
  (∀ e : Val, 32 ≤ e.toNat → decode .sixbit e.toNat = .ok (.eHi e) ∧
    ∀ s : State, exec (.eHi e) s =
      .next { s with
        text := s.text ++ [BitVec.ofNat 16 e.toNat]
        phase := match s.phase with | .sixbit k => .sixbit (k + 1) | ph => ph })

/-- `E.UNL` on this hardware (45_sixbit.md R271; SIXBIT_REALIGN = 0, decision D12): in any place of the group exactly its six bits are consumed,
nothing is emitted, the segment returns. -/
def Obligations.SixbitUnlatchConsumesSixBits : Prop :=
  decode .sixbit 31 = .ok .eUnl ∧
  (∀ s : State, exec .eUnl s = .next { s with mode := .ascii, phase := .loop }) ∧
  ∀ (s : State) (k : Fin 4), s.run = .busy → s.phase = .sixbit k → (k ≠ 0 ∨ 16 < available s) → 6 ≤ available s →
    memRead s.cw s.pos 6 = some 31 →
      step s = .next { s with pos := s.pos + 6, e := 31, mode := .ascii, phase := .loop }

/-! ## RawBytes -/

/-- The three headers (46_rawbytes.md R294 to R296): the length, an empty SEGBUF, and the counted run begins (log 2). -/
def Obligations.RawBytesHeadersGiveTheLength : Prop :=
  decode .header1 0 = .ok .bLen0 ∧
  (∀ d1 : Byte, 1 ≤ d1.toNat → d1.toNat ≤ 249 → decode .header1 d1.toNat = .ok (.bLen1 d1)) ∧
  (∀ d1 d2 : Byte, 250 ≤ d1.toNat → decode .header2 (d1.toNat * 256 + d2.toNat) = .ok (.bLen2 d1 d2)) ∧
  ∀ s : State,
    exec .bLen0 s = .next { s with cnt := (8 * s.n - s.pos) / 8, segbuf := [], phase := .rawData } ∧
    (∀ d1 : Byte, exec (.bLen1 d1) s = .next { s with cnt := d1.toNat, segbuf := [], phase := .rawData }) ∧
    (∀ d1 d2 : Byte, 250 ≤ d1.toNat →
      exec (.bLen2 d1 d2) s =
        .next { s with cnt := 250 * (d1.toNat - 249) + d2.toNat, segbuf := [], phase := .rawData })

/-- `B.DATA` (46_rawbytes.md R297): every byte value is legal, the derandomized byte joins SEGBUF, and P has moved on with the read. -/
def Obligations.RawBytesDataJoinsTheSegment : Prop :=
  (∀ b : Byte, decode .data b.toNat = .ok (.bData b) ∧
    ∀ s : State, exec (.bData b) s = .next { s with segbuf := s.segbuf ++ [b] }) ∧
  ∀ (s : State) (w : Nat), s.run = .busy → s.phase = .rawData → s.segbuf.length < s.cnt → 8 ≤ available s →
    memRead s.cw s.pos 8 = some w →
      step s = .next { s with
        pos := s.pos + 8, p := s.p + 1, segbuf := s.segbuf ++ [derandomize (BitVec.ofNat 8 w) s.p] }

/-- When the count is reached the segment is appended to SEGS, its bytes join TEXT as the characters of the same numbers, and MODE
becomes ASCII (46_rawbytes.md R299, R300; 41_dispatch.md R143). -/
def Obligations.RawBytesSegmentIsAppendedWhole : Prop :=
  ∀ s : State, s.run = .busy → s.phase = .rawData → s.segbuf.length = s.cnt →
    ∃ l : List Char16, l.map BitVec.toNat = s.segbuf.map BitVec.toNat ∧
      step s = .next { s with segs := s.segs ++ [s.segbuf], text := s.text ++ l, mode := .ascii, phase := .loop }

/-! ## The loops -/

/-- A step of a busy machine reads the unit the active procedure reads next and is `exec` of it on the state after the read. -/
def Obligations.StepRunsTheDecodedUnit : Prop :=
  ∀ (s : State) (i : Instr), s.run = .busy →
    (∀ (cw : Nat) (s1 : State), s.phase = .ascii → readBits 8 s = .ok (cw, s1) → decode .ascii cw = .ok i →
      step s = exec i { s1 with b1 := BitVec.ofNat 8 cw }) ∧
    (∀ (m : TripleMode) (s1 : State), s.phase = .triple m → available s ≠ 8 → readBits 8 s = .ok (254, s1) →
      decode (.unlatch m) 254 = .ok i → step s = exec i { s1 with b1 := 254 }) ∧
    (∀ (m : TripleMode) (x1 x2 : Nat) (s1 s2 : State), s.phase = .triple m → available s ≠ 8 →
      readBits 8 s = .ok (x1, s1) → x1 ≠ 254 → readBits 8 { s1 with b1 := BitVec.ofNat 8 x1 } = .ok (x2, s2) →
      decode (.pair m) (x1 * 256 + x2) = .ok i → step s = exec i { s2 with b2 := BitVec.ofNat 8 x2 }) ∧
    (∀ (k : Fin 4) (e : Nat) (s1 : State), s.phase = .sixbit k → (k ≠ 0 ∨ 16 < available s) →
      readBits 6 s = .ok (e, s1) → decode .sixbit e = .ok i → step s = exec i { s1 with e := BitVec.ofNat 6 e }) ∧
    (∀ (d1 : Byte) (s1 : State), s.phase = .rawHeader → readRaw s = .ok (d1, s1) → d1.toNat < 250 →
      decode .header1 d1.toNat = .ok i → step s = exec i { s1 with d1 := d1 }) ∧
    (∀ (d1 d2 : Byte) (s1 s2 : State), s.phase = .rawHeader → readRaw s = .ok (d1, s1) → 250 ≤ d1.toNat →
      readRaw { s1 with d1 := d1 } = .ok (d2, s2) → decode .header2 (d1.toNat * 256 + d2.toNat) = .ok i →
      step s = exec i { s2 with d2 := d2 }) ∧
    (∀ (b : Byte) (s1 : State), s.phase = .rawData → s.segbuf.length < s.cnt → readRaw s = .ok (b, s1) →
      decode .data b.toNat = .ok i → step s = exec i s1)

/-- The dispatch loop enters the decoder of MODE while bits remain (41_dispatch.md R140, R141); USH is cleared at the entry of ASCII, C40, TEXT
and X12, SHIFT at the entry of a triple mode (decisions D6, D7), P is set to `((POS + 7) div 8) + 1` at the entry of RawBytes (46_rawbytes.md
R301; 40_bitcursor.md R122, rounding up by decision D11, log 11). -/
def Obligations.LoopEntersTheDecoderOfTheMode : Prop :=
  ∀ s : State, s.run = .busy → s.phase = .loop → 0 < available s →
    (s.mode = .ascii → step s = .next { s with ush := false, phase := .ascii }) ∧
    (∀ m : TripleMode, s.mode = m.mode → step s = .next { s with shift := .s0, ush := false, phase := .triple m }) ∧
    (s.mode = .edf → step s = .next { s with phase := .sixbit 0 }) ∧
    (s.mode = .b256 → step s = .next { s with p := (s.pos + 7) / 8 + 1, phase := .rawHeader })

/-- The loop ends when MODE is PAD or no bits remain: the trailer is appended once, RUN becomes DONE, and nothing more is read
(41_dispatch.md R141, R144). The buffer is kept as the output RES.raw (the model's copy, log 18). -/
def Obligations.LoopEndAppendsTheTrailerOnce : Prop :=
  ∀ s : State, s.run = .busy → s.phase = .loop → (s.mode = .pad ∨ available s = 0) →
    step s = .next { s with text := s.text ++ s.trl, run := .done, raw := s.cw.bytes }

/-- A segment ends without a further read: ASCII and the triple modes when no bits remain, a triple mode when exactly 8 remain, Sixbit when 16 or
fewer remain before a group (42_ascii.md R181; 43_base40.md R200; 45_sixbit.md R274; 41_dispatch.md R143). -/
def Obligations.SegmentsEndOnTooFewBits : Prop :=
  ∀ s : State, s.run = .busy →
    ((s.phase = .ascii ∧ available s = 0) ∨
     (∃ m, s.phase = .triple m ∧ (available s = 0 ∨ available s = 8)) ∨
     (s.phase = .sixbit 0 ∧ available s ≤ 16)) →
      step s = .next { s with mode := .ascii, phase := .loop }

/-- The complete mode graph (41_dispatch.md R145): every change of MODE goes from ASCII or to ASCII, and PAD has no way out. -/
def Obligations.ModeMovesAlongTheGraph : Prop :=
  ∀ s t : State, phaseAgrees s = true → step s = .next t → modeEdge s.mode t.mode = true

/-! ## Errors -/

/-- The abort (60_exceptions.md R356, R357, R367): a step that ends in ERROR records FORMAT and a cause, leaves CW and N, and nothing comes
after it. -/
def Obligations.AbortRecordsItsCauseAndIsFinal : Prop :=
  ∀ s t : State, s.run = .busy → step s = .next t → t.run = .error →
    (∃ c : Cause, t.err = ⟨.format, some c⟩) ∧ SameBuffer s t ∧ s.segs = t.segs ∧
      readResult t = none ∧ ∀ k : Nat, steps k t = .next t

/-- Encoding Capability Error and `B256_LENGTH` are never raised (60_exceptions.md R351, R361; 46_rawbytes.md R298). -/
def Obligations.TwoErrorsAreNeverRaised : Prop :=
  ∀ s t : State, s.err.kind ≠ .encodingCapability → s.err.cause ≠ some .b256Length → step s = .next t →
    t.err.kind ≠ .encodingCapability ∧ t.err.cause ≠ some .b256Length

/-! ## Frames -/

/-- What each unit may change, and that it changes nothing else: CW (every index), N, SA, SEGS, RES.raw (log 18), and the registers the reads
write are left by every unit, and each other element changes only under the units that the rules name. The model's element `phase`
(log 2) changes only under a unit that returns a mode, a Sixbit value (the next place of its group) and a RawBytes header. -/
def Obligations.UnitsChangeOnlyWhatTheirRulesName : Prop :=
  ∀ (i : Instr) (s t : State), exec i s = .next t →
    (SameBuffer s t ∧ (∀ a : Nat, t.cw.read a = s.cw.read a) ∧ t.segs = s.segs ∧ t.b1 = s.b1 ∧ t.b2 = s.b2 ∧
      t.e = s.e ∧ t.d1 = s.d1 ∧ t.d2 = s.d2 ∧ t.p = s.p ∧ t.raw = s.raw) ∧
    (t.pos ≠ s.pos → i = .eUnl) ∧
    (t.trl ≠ s.trl → i = .aM05 ∨ i = .aM06) ∧
    (t.mode ≠ s.mode →
      i ∈ [Instr.aPad, .aLc40, .aLb256, .aLx12, .aLtxt, .aLedf, .cUnl, .tUnl, .xUnl, .eUnl]) ∧
    (t.phase ≠ s.phase →
      i ∈ [Instr.aPad, .aLc40, .aLb256, .aLx12, .aLtxt, .aLedf, .cUnl, .tUnl, .xUnl] ∨
        i.format = .S6 ∨ i.format = .H8 ∨ i.format = .H16) ∧
    (t.v ≠ s.v ∨ t.c ≠ s.c → ∃ m b1 b2, i = pairUnit m b1 b2) ∧
    (t.cnt ≠ s.cnt → i = .bLen0 ∨ (∃ d1, i = .bLen1 d1) ∨ ∃ d1 d2, i = .bLen2 d1 d2) ∧
    (t.segbuf ≠ s.segbuf → i.format = .H8 ∨ i.format = .H16 ∨ i.format = .D8) ∧
    (t.shift ≠ s.shift → i.format = .V40 ∨ i.format = .P16) ∧
    (t.ush ≠ s.ush → i = .aUsh ∨ (∃ ch, i = .aLit ch) ∨ i.format = .V40 ∨ i.format = .P16) ∧
    (t.text ≠ s.text → i.format = .A8 ∨ i.format = .V40 ∨ i.format = .P16 ∨ i.format = .S6) ∧
    (t.run ≠ s.run ∨ t.err ≠ s.err → t.run = .error ∧ ∃ c, t.err = ⟨.format, some c⟩)

/-- No step writes the codeword buffer, at any index (10_state.md R21; 20_memory.md R67); POS never decreases and the accumulators only grow, TEXT and
SEGS at the end, TRL at the front (10_state.md R36b, R36c). -/
def Obligations.StepsKeepTheBufferAndOnlyGrow : Prop :=
  ∀ s t : State, step s = .next t →
    SameBuffer s t ∧ (∀ a : Nat, t.cw.read a = s.cw.read a) ∧ Grows s t

/-- A machine that is not busy stays as it is until the host acts (70_reset_and_hazards.md R383; log 6). -/
def Obligations.NothingHappensUnlessBusy : Prop :=
  ∀ (s : State) (k : Nat), s.run ≠ .busy → steps k s = .next s

/-! ## The host -/

/-- `launch` (70_reset_and_hazards.md R381): allowed from every status but BUSY once a buffer has been supplied, and it sets exactly the launch
values; while BUSY, `launch` and `supply` are refused (R387; U6; log 7). With the earlier result goes the copy RES.raw (log 18), and the working registers are kept
(log 14). -/
def Obligations.LaunchSetsTheLaunchValues : Prop :=
  ∀ s : State,
    (s.run ≠ .busy → s.supplied = true →
      launch s =
        .next { s with
          pos := 0, mode := .ascii, phase := .loop, text := [], trl := [], segs := [], ush := false, shift := .s0
          err := ⟨.none, none⟩, run := .busy, raw := [] }) ∧
    (s.run = .busy → launch s = .refused .hostWhileBusy ∧ ∀ bs : List Byte, supply bs s = .refused .hostWhileBusy)

/-- `supply` of an accepted buffer: the bytes stand at the indices `0 .. N-1` and nowhere else; nothing but the buffer changes (70_reset_and_hazards.md
R380). The model's choices: a supply answers a next state only while RUN is not BUSY (log 7), an index past the buffer has no value and
the cells are in canonical form (log 4), the host's flag is set (log 3). -/
def Obligations.SupplyPlacesTheBytes : Prop :=
  ∀ (bs : List Byte) (s t : State), supply bs s = .next t →
    s.run ≠ .busy ∧ t.n = bs.length ∧ (∀ a : Nat, t.cw.read a = bs[a]?) ∧ t.cw.wf = true ∧
      t = { s with cw := t.cw, n := t.n, supplied := true }

/-- The result (47_result.md R320 to R325): readable exactly when RUN = DONE; segments absent exactly when SEGS is empty; SA absent; RES.raw
the copy made at completion (log 18). That a premature read answers none is the model's choice (log 7): R386 and U4 leave it open. -/
def Obligations.ResultIsReadableOnlyWhenDone : Prop :=
  ∀ s : State,
    (s.run ≠ .done → readResult s = none) ∧
    (s.run = .done → ∃ r : Result, readResult s = some r ∧ r.text = s.text ∧ r.raw = s.raw ∧ r.sa = .absent ∧
      (r.segments = none ↔ s.segs = []) ∧ (s.segs ≠ [] → r.segments = some s.segs))

/-- The raw bytes of a result are the buffer the host supplied, also when the decode stopped early (47_result.md R323). -/
def Obligations.ResultReturnsTheSuppliedBuffer : Prop :=
  ∀ (bs : List Byte) (s t : State) (k : Nat) (r : Result),
    steps k (invoked bs s) = .next t → readResult t = some r → r.raw = bs

/-! ## Invariants and whole runs -/

/-- The invariant holds after power-on. (Where the power-on values are the model's: log 1.) -/
def Obligations.ResetMeetsTheInvariant : Prop := Inv State.reset ∧ Capacity State.reset

/-- The invariant is kept by every step, from every state that meets it (10_state.md R36). -/
def Obligations.StepKeepsTheInvariant : Prop :=
  ∀ s t : State, Inv s → step s = .next t → Inv t

/-- A supply followed by a launch keeps the invariant, and so does a launch alone, which also establishes the capacity bounds. A supply alone
keeps every part of the invariant but `POS <= 8N`: POS stands where the last invocation left it until the next launch sets it (70_reset_and_hazards.md
R380, R381). -/
def Obligations.SupplyThenLaunchKeepsTheInvariant : Prop :=
  ∀ s t : State, Inv s →
    (∀ bs : List Byte, s.run ≠ .busy → Inv (launched (loadBuffer bs s))) ∧
    (launch s = .next t → Inv t ∧ Capacity t) ∧
    (∀ bs : List Byte, supply bs s = .next t →
      BufferFilled t ∧ phaseAgrees t = true ∧ CharsBounded t ∧ TrailerWhole t ∧ errorRecorded t = true ∧
        runTracked t = true ∧ BusyHasBuffer t)

/-- A state that meets the invariant always has a next state: no step stops by a fault or a refusal. -/
def Obligations.EveryStepHasANextState : Prop :=
  ∀ s : State, Inv s → ∃ t : State, step s = .next t

/-- The accumulators are bounded by the bits consumed (20_memory.md R73), with the macro strings of log 12. -/
def Obligations.StepKeepsTheCapacityBounds : Prop :=
  ∀ s t : State, Capacity s → step s = .next t → Capacity t

/-- At completion `len(TEXT) <= 9N`, all segment bytes are at most `N`, `len(SEGS) <= N div 2` (20_memory.md R73). The factor 9 rests on the lengths of
the macro strings, which are the spec's general knowledge (log 12). -/
def Obligations.CompletedOutputsFitTheirBounds : Prop :=
  ∀ (bs : List Byte) (s t : State) (k : Nat), steps k (invoked bs s) = .next t → t.run = .done →
    t.text.length ≤ 9 * bs.length ∧ (t.segs.map List.length).sum ≤ bs.length ∧ t.segs.length ≤ bs.length / 2

/-- Every invocation ends, in DONE or in ERROR, within a number of steps that the length of the buffer bounds (10_state.md R37; 70_reset_and_hazards.md
R383, R389; the count of steps is the model's, log 2). -/
def Obligations.EveryInvocationEnds : Prop :=
  ∀ (bs : List Byte) (s : State),
    ∃ (k : Nat) (t : State), k ≤ 8 * bs.length + 5 ∧ steps k (invoked bs s) = .next t ∧ Finished t

/-- Nothing of an earlier invocation survives a launch, and the contents the spec leaves unspecified are never looked at: what the host
observes after k steps depends on the buffer alone (10_state.md R34; 70_reset_and_hazards.md R384). -/
def Obligations.ObservationDependsOnlyOnTheBuffer : Prop :=
  ∀ (bs : List Byte) (s1 s2 : State) (k : Nat),
    ∃ t1 t2 : State, steps k (invoked bs s1) = .next t1 ∧ steps k (invoked bs s2) = .next t2 ∧
      observe t1 = observe t2

/-- The step machine computes the function `Decode` of 41_dispatch.md R140: from a launch over any buffer it ends, and its outcome is the
pure function's. -/
def Obligations.StepMachineComputesDecode : Prop :=
  ∀ (bs : List Byte) (s : State),
    ∃ (k : Nat) (t : State), steps k (invoked bs s) = .next t ∧ Finished t ∧ outcomeOf t = Fn.decodeBuffer bs

/-! ## What the host reads besides the result -/

/-- `status` (70_reset_and_hazards.md R380): RUN always, and ERR exactly when RUN = ERROR. `read CW`: nothing while BUSY (R380; log 7); nothing in
IDLE (10_state.md R35; D2), also after a supply, where R380's table alone would allow it (log 19); once an invocation has ended, the
buffer, which over a filled buffer is its N bytes, index by index. -/
def Obligations.StatusAndReadCwAnswerAsTheTableSays : Prop :=
  ∀ s : State,
    ((status s).run = s.run ∧ (s.run = .error → (status s).err = some s.err) ∧
      (s.run ≠ .error → (status s).err = none)) ∧
    (s.run = .busy → readCw s = none) ∧
    (s.run = .idle → readCw s = none) ∧
    (Finished s → BufferFilled s →
      ∃ bs : List Byte, readCw s = some bs ∧ bs.length = s.n ∧ ∀ a : Nat, s.cw.read a = bs[a]?)

/-- From completion to the next launch the outputs are stable (70_reset_and_hazards.md R383; 47_result.md R320): neither a step nor a supply changes
what `status` and `read result` answer. The step of a machine that is not busy is log 6; that RES.raw is the decoded buffer also after a
further supply is the model's reading (log 18). -/
def Obligations.OutputsStayUntilTheNextLaunch : Prop :=
  ∀ s t : State, Finished s → (step s = .next t ∨ ∃ bs : List Byte, supply bs s = .next t) →
    status t = status s ∧ readResult t = readResult s
end

