-- ==== Sys2Proof/Laws/Decode.lean ====
section
/-! SUPPORT. Which row each context's decoder answers, and the two bytes of a 16-bit value. -/

namespace Sys2Proof

open Machine

/-! ## Sixteen-bit values -/

theorem pairWord_lt (b1 b2 : Byte) : pairWord b1 b2 < 65536 := by
  have := b1.isLt
  have := b2.isLt
  unfold pairWord
  omega

theorem pairWord_div (b1 b2 : Byte) : pairWord b1 b2 / 256 = b1.toNat := by
  have := b2.isLt
  unfold pairWord
  omega

theorem pairWord_mod (b1 b2 : Byte) : pairWord b1 b2 % 256 = b2.toNat := by
  have := b2.isLt
  unfold pairWord
  omega

@[simp] theorem highByte_pairWord (b1 b2 : Byte) : highByte (pairWord b1 b2) = b1 := by
  simp [highByte, pairWord_div]

@[simp] theorem lowByte_pairWord (b1 b2 : Byte) : lowByte (pairWord b1 b2) = b2 := by
  simp [lowByte, pairWord_mod]

theorem highByte_toNat {w : Nat} (h : w < 65536) : (highByte w).toNat = w / 256 := by
  simp [highByte]
  omega

theorem lowByte_toNat (w : Nat) : (lowByte w).toNat = w % 256 := by
  simp [lowByte]

theorem pairWord_high_low {w : Nat} (h : w < 65536) : pairWord (highByte w) (lowByte w) = w := by
  unfold pairWord
  rw [highByte_toNat h, lowByte_toNat]
  omega

/-- Every 16-bit value is the value of two bytes. -/
theorem exists_pairWord {w : Nat} (h : w < 65536) : ∃ b1 b2 : Byte, w = pairWord b1 b2 :=
  ⟨highByte w, lowByte w, (pairWord_high_low h).symm⟩

/-! ## The decoder, context by context -/

theorem decode_ascii {v : Nat} (h : v < 256) : decode .ascii v = .ok (decodeAscii v) := by
  have hw : ¬ 256 ≤ v := by omega
  simp [decode, Ctx.format, Format.width, hw]

theorem decode_unlatch (m : TripleMode) : decode (.unlatch m) 254 = .ok (unlatchUnit m) := by
  simp [decode, Ctx.format, Format.width]

theorem decode_pair (m : TripleMode) {b1 b2 : Byte} (h : b1.toNat ≠ 254) :
    decode (.pair m) (pairWord b1 b2) = .ok (pairUnit m b1 b2) := by
  have := pairWord_lt b1 b2
  have hw : ¬ 65536 ≤ pairWord b1 b2 := by omega
  simp [decode, Ctx.format, Format.width, pairWord_div, h, hw]

theorem decode_value (m : Base40) (sh : Shift) {v : Nat} (h : v ≤ 40) :
    decode (.value m sh) v = .ok (decodeBase40 m sh v) := by
  have hw : ¬ 64 ≤ v := by omega
  simp [decode, Ctx.format, Format.width, tripleMax, h, hw]

theorem decode_valueX12 {v : Nat} (h : v ≤ 40) : decode .valueX12 v = .ok (decodeX12 v) := by
  have hw : ¬ 64 ≤ v := by omega
  simp [decode, Ctx.format, Format.width, tripleMax, h, hw]

theorem decode_sixbit {v : Nat} (h : v < 64) : decode .sixbit v = .ok (decodeSixbit v) := by
  have hw : ¬ 64 ≤ v := by omega
  simp [decode, Ctx.format, Format.width, hw]

theorem decode_header1 {v : Nat} (h : v < 250) : decode .header1 v = .ok (decodeHeader v) := by
  have hw : ¬ 256 ≤ v := by omega
  simp [decode, Ctx.format, Format.width, h, hw]

theorem decode_header2 {d1 d2 : Byte} (h : 250 ≤ d1.toNat) :
    decode .header2 (pairWord d1 d2) = .ok (.bLen2 d1 d2) := by
  have := pairWord_lt d1 d2
  have hw : ¬ 65536 ≤ pairWord d1 d2 := by omega
  have hd : ¬ d1.toNat < 250 := by omega
  simp [decode, Ctx.format, Format.width, pairWord_div, hd, hw]

theorem decode_data (b : Byte) : decode .data b.toNat = .ok (.bData b) := by
  have := b.isLt
  have hw : ¬ 256 ≤ b.toNat := by omega
  simp [decode, Ctx.format, Format.width, hw]

/-! ## The units of a context -/

@[simp] theorem unlatchUnit_ctx (m : TripleMode) : (unlatchUnit m).ctx = .unlatch m := by cases m <;> rfl

@[simp] theorem pairUnit_ctx (m : TripleMode) (b1 b2 : Byte) : (pairUnit m b1 b2).ctx = .pair m := by cases m <;> rfl

@[simp] theorem encode_unlatchUnit (m : TripleMode) : encode (unlatchUnit m) = 254 := by cases m <;> rfl

@[simp] theorem encode_pairUnit (m : TripleMode) (b1 b2 : Byte) : encode (pairUnit m b1 b2) = pairWord b1 b2 := by
  cases m <;> rfl

end Sys2Proof
end

