-- ==== Sys2Proof/Laws/State.lean ====
section
/-! SUPPORT. One lemma per field per named update of State, so that no later proof unfolds a record update. -/

namespace Sys2Proof.Machine

/-! ### State.abort -/

@[simp] theorem State.abort_cw (s : State) (c : Cause) : (s.abort c).cw = s.cw := rfl

@[simp] theorem State.abort_n (s : State) (c : Cause) : (s.abort c).n = s.n := rfl

@[simp] theorem State.abort_supplied (s : State) (c : Cause) : (s.abort c).supplied = s.supplied := rfl

@[simp] theorem State.abort_pos (s : State) (c : Cause) : (s.abort c).pos = s.pos := rfl

@[simp] theorem State.abort_mode (s : State) (c : Cause) : (s.abort c).mode = s.mode := rfl

@[simp] theorem State.abort_phase (s : State) (c : Cause) : (s.abort c).phase = s.phase := rfl

@[simp] theorem State.abort_shift (s : State) (c : Cause) : (s.abort c).shift = s.shift := rfl

@[simp] theorem State.abort_ush (s : State) (c : Cause) : (s.abort c).ush = s.ush := rfl

@[simp] theorem State.abort_b1 (s : State) (c : Cause) : (s.abort c).b1 = s.b1 := rfl

@[simp] theorem State.abort_b2 (s : State) (c : Cause) : (s.abort c).b2 = s.b2 := rfl

@[simp] theorem State.abort_v (s : State) (c : Cause) : (s.abort c).v = s.v := rfl

@[simp] theorem State.abort_c (s : State) (c : Cause) : (s.abort c).c = s.c := rfl

@[simp] theorem State.abort_e (s : State) (c : Cause) : (s.abort c).e = s.e := rfl

@[simp] theorem State.abort_d1 (s : State) (c : Cause) : (s.abort c).d1 = s.d1 := rfl

@[simp] theorem State.abort_d2 (s : State) (c : Cause) : (s.abort c).d2 = s.d2 := rfl

@[simp] theorem State.abort_cnt (s : State) (c : Cause) : (s.abort c).cnt = s.cnt := rfl

@[simp] theorem State.abort_p (s : State) (c : Cause) : (s.abort c).p = s.p := rfl

@[simp] theorem State.abort_segbuf (s : State) (c : Cause) : (s.abort c).segbuf = s.segbuf := rfl

@[simp] theorem State.abort_text (s : State) (c : Cause) : (s.abort c).text = s.text := rfl

@[simp] theorem State.abort_trl (s : State) (c : Cause) : (s.abort c).trl = s.trl := rfl

@[simp] theorem State.abort_segs (s : State) (c : Cause) : (s.abort c).segs = s.segs := rfl

@[simp] theorem State.abort_run (s : State) (c : Cause) : (s.abort c).run = .error := rfl

@[simp] theorem State.abort_err (s : State) (c : Cause) : (s.abort c).err = ⟨.format, some c⟩ := rfl

@[simp] theorem State.abort_sa (s : State) (c : Cause) : (s.abort c).sa = s.sa := rfl

@[simp] theorem State.abort_raw (s : State) (c : Cause) : (s.abort c).raw = s.raw := rfl

/-! ### State.returnTo -/

@[simp] theorem State.returnTo_cw (s : State) (m : Mode) : (s.returnTo m).cw = s.cw := rfl

@[simp] theorem State.returnTo_n (s : State) (m : Mode) : (s.returnTo m).n = s.n := rfl

@[simp] theorem State.returnTo_supplied (s : State) (m : Mode) : (s.returnTo m).supplied = s.supplied := rfl

@[simp] theorem State.returnTo_pos (s : State) (m : Mode) : (s.returnTo m).pos = s.pos := rfl

@[simp] theorem State.returnTo_mode (s : State) (m : Mode) : (s.returnTo m).mode = m := rfl

@[simp] theorem State.returnTo_phase (s : State) (m : Mode) : (s.returnTo m).phase = .loop := rfl

@[simp] theorem State.returnTo_shift (s : State) (m : Mode) : (s.returnTo m).shift = s.shift := rfl

@[simp] theorem State.returnTo_ush (s : State) (m : Mode) : (s.returnTo m).ush = s.ush := rfl

@[simp] theorem State.returnTo_b1 (s : State) (m : Mode) : (s.returnTo m).b1 = s.b1 := rfl

@[simp] theorem State.returnTo_b2 (s : State) (m : Mode) : (s.returnTo m).b2 = s.b2 := rfl

@[simp] theorem State.returnTo_v (s : State) (m : Mode) : (s.returnTo m).v = s.v := rfl

@[simp] theorem State.returnTo_c (s : State) (m : Mode) : (s.returnTo m).c = s.c := rfl

@[simp] theorem State.returnTo_e (s : State) (m : Mode) : (s.returnTo m).e = s.e := rfl

@[simp] theorem State.returnTo_d1 (s : State) (m : Mode) : (s.returnTo m).d1 = s.d1 := rfl

@[simp] theorem State.returnTo_d2 (s : State) (m : Mode) : (s.returnTo m).d2 = s.d2 := rfl

@[simp] theorem State.returnTo_cnt (s : State) (m : Mode) : (s.returnTo m).cnt = s.cnt := rfl

@[simp] theorem State.returnTo_p (s : State) (m : Mode) : (s.returnTo m).p = s.p := rfl

@[simp] theorem State.returnTo_segbuf (s : State) (m : Mode) : (s.returnTo m).segbuf = s.segbuf := rfl

@[simp] theorem State.returnTo_text (s : State) (m : Mode) : (s.returnTo m).text = s.text := rfl

@[simp] theorem State.returnTo_trl (s : State) (m : Mode) : (s.returnTo m).trl = s.trl := rfl

@[simp] theorem State.returnTo_segs (s : State) (m : Mode) : (s.returnTo m).segs = s.segs := rfl

@[simp] theorem State.returnTo_run (s : State) (m : Mode) : (s.returnTo m).run = s.run := rfl

@[simp] theorem State.returnTo_err (s : State) (m : Mode) : (s.returnTo m).err = s.err := rfl

@[simp] theorem State.returnTo_sa (s : State) (m : Mode) : (s.returnTo m).sa = s.sa := rfl

@[simp] theorem State.returnTo_raw (s : State) (m : Mode) : (s.returnTo m).raw = s.raw := rfl

/-! ### emit -/

@[simp] theorem emit_cw (x : Nat) (s : State) : (emit x s).cw = s.cw := rfl

@[simp] theorem emit_n (x : Nat) (s : State) : (emit x s).n = s.n := rfl

@[simp] theorem emit_supplied (x : Nat) (s : State) : (emit x s).supplied = s.supplied := rfl

@[simp] theorem emit_pos (x : Nat) (s : State) : (emit x s).pos = s.pos := rfl

@[simp] theorem emit_mode (x : Nat) (s : State) : (emit x s).mode = s.mode := rfl

@[simp] theorem emit_phase (x : Nat) (s : State) : (emit x s).phase = s.phase := rfl

@[simp] theorem emit_shift (x : Nat) (s : State) : (emit x s).shift = s.shift := rfl

@[simp] theorem emit_ush (x : Nat) (s : State) : (emit x s).ush = s.ush := rfl

@[simp] theorem emit_b1 (x : Nat) (s : State) : (emit x s).b1 = s.b1 := rfl

@[simp] theorem emit_b2 (x : Nat) (s : State) : (emit x s).b2 = s.b2 := rfl

@[simp] theorem emit_v (x : Nat) (s : State) : (emit x s).v = s.v := rfl

@[simp] theorem emit_c (x : Nat) (s : State) : (emit x s).c = s.c := rfl

@[simp] theorem emit_e (x : Nat) (s : State) : (emit x s).e = s.e := rfl

@[simp] theorem emit_d1 (x : Nat) (s : State) : (emit x s).d1 = s.d1 := rfl

@[simp] theorem emit_d2 (x : Nat) (s : State) : (emit x s).d2 = s.d2 := rfl

@[simp] theorem emit_cnt (x : Nat) (s : State) : (emit x s).cnt = s.cnt := rfl

@[simp] theorem emit_p (x : Nat) (s : State) : (emit x s).p = s.p := rfl

@[simp] theorem emit_segbuf (x : Nat) (s : State) : (emit x s).segbuf = s.segbuf := rfl

@[simp] theorem emit_text (x : Nat) (s : State) : (emit x s).text = s.text ++ [BitVec.ofNat 16 x] := rfl

@[simp] theorem emit_trl (x : Nat) (s : State) : (emit x s).trl = s.trl := rfl

@[simp] theorem emit_segs (x : Nat) (s : State) : (emit x s).segs = s.segs := rfl

@[simp] theorem emit_run (x : Nat) (s : State) : (emit x s).run = s.run := rfl

@[simp] theorem emit_err (x : Nat) (s : State) : (emit x s).err = s.err := rfl

@[simp] theorem emit_sa (x : Nat) (s : State) : (emit x s).sa = s.sa := rfl

@[simp] theorem emit_raw (x : Nat) (s : State) : (emit x s).raw = s.raw := rfl

/-! ### emitAll -/

@[simp] theorem emitAll_cw (l : List Nat) (s : State) : (emitAll l s).cw = s.cw := rfl

@[simp] theorem emitAll_n (l : List Nat) (s : State) : (emitAll l s).n = s.n := rfl

@[simp] theorem emitAll_supplied (l : List Nat) (s : State) : (emitAll l s).supplied = s.supplied := rfl

@[simp] theorem emitAll_pos (l : List Nat) (s : State) : (emitAll l s).pos = s.pos := rfl

@[simp] theorem emitAll_mode (l : List Nat) (s : State) : (emitAll l s).mode = s.mode := rfl

@[simp] theorem emitAll_phase (l : List Nat) (s : State) : (emitAll l s).phase = s.phase := rfl

@[simp] theorem emitAll_shift (l : List Nat) (s : State) : (emitAll l s).shift = s.shift := rfl

@[simp] theorem emitAll_ush (l : List Nat) (s : State) : (emitAll l s).ush = s.ush := rfl

@[simp] theorem emitAll_b1 (l : List Nat) (s : State) : (emitAll l s).b1 = s.b1 := rfl

@[simp] theorem emitAll_b2 (l : List Nat) (s : State) : (emitAll l s).b2 = s.b2 := rfl

@[simp] theorem emitAll_v (l : List Nat) (s : State) : (emitAll l s).v = s.v := rfl

@[simp] theorem emitAll_c (l : List Nat) (s : State) : (emitAll l s).c = s.c := rfl

@[simp] theorem emitAll_e (l : List Nat) (s : State) : (emitAll l s).e = s.e := rfl

@[simp] theorem emitAll_d1 (l : List Nat) (s : State) : (emitAll l s).d1 = s.d1 := rfl

@[simp] theorem emitAll_d2 (l : List Nat) (s : State) : (emitAll l s).d2 = s.d2 := rfl

@[simp] theorem emitAll_cnt (l : List Nat) (s : State) : (emitAll l s).cnt = s.cnt := rfl

@[simp] theorem emitAll_p (l : List Nat) (s : State) : (emitAll l s).p = s.p := rfl

@[simp] theorem emitAll_segbuf (l : List Nat) (s : State) : (emitAll l s).segbuf = s.segbuf := rfl

@[simp] theorem emitAll_text (l : List Nat) (s : State) : (emitAll l s).text = s.text ++ l.map (BitVec.ofNat 16) := rfl

@[simp] theorem emitAll_trl (l : List Nat) (s : State) : (emitAll l s).trl = s.trl := rfl

@[simp] theorem emitAll_segs (l : List Nat) (s : State) : (emitAll l s).segs = s.segs := rfl

@[simp] theorem emitAll_run (l : List Nat) (s : State) : (emitAll l s).run = s.run := rfl

@[simp] theorem emitAll_err (l : List Nat) (s : State) : (emitAll l s).err = s.err := rfl

@[simp] theorem emitAll_sa (l : List Nat) (s : State) : (emitAll l s).sa = s.sa := rfl

@[simp] theorem emitAll_raw (l : List Nat) (s : State) : (emitAll l s).raw = s.raw := rfl

/-! ### prependTrailer -/

@[simp] theorem prependTrailer_cw (l : List Nat) (s : State) : (prependTrailer l s).cw = s.cw := rfl

@[simp] theorem prependTrailer_n (l : List Nat) (s : State) : (prependTrailer l s).n = s.n := rfl

@[simp] theorem prependTrailer_supplied (l : List Nat) (s : State) : (prependTrailer l s).supplied = s.supplied := rfl

@[simp] theorem prependTrailer_pos (l : List Nat) (s : State) : (prependTrailer l s).pos = s.pos := rfl

@[simp] theorem prependTrailer_mode (l : List Nat) (s : State) : (prependTrailer l s).mode = s.mode := rfl

@[simp] theorem prependTrailer_phase (l : List Nat) (s : State) : (prependTrailer l s).phase = s.phase := rfl

@[simp] theorem prependTrailer_shift (l : List Nat) (s : State) : (prependTrailer l s).shift = s.shift := rfl

@[simp] theorem prependTrailer_ush (l : List Nat) (s : State) : (prependTrailer l s).ush = s.ush := rfl

@[simp] theorem prependTrailer_b1 (l : List Nat) (s : State) : (prependTrailer l s).b1 = s.b1 := rfl

@[simp] theorem prependTrailer_b2 (l : List Nat) (s : State) : (prependTrailer l s).b2 = s.b2 := rfl

@[simp] theorem prependTrailer_v (l : List Nat) (s : State) : (prependTrailer l s).v = s.v := rfl

@[simp] theorem prependTrailer_c (l : List Nat) (s : State) : (prependTrailer l s).c = s.c := rfl

@[simp] theorem prependTrailer_e (l : List Nat) (s : State) : (prependTrailer l s).e = s.e := rfl

@[simp] theorem prependTrailer_d1 (l : List Nat) (s : State) : (prependTrailer l s).d1 = s.d1 := rfl

@[simp] theorem prependTrailer_d2 (l : List Nat) (s : State) : (prependTrailer l s).d2 = s.d2 := rfl

@[simp] theorem prependTrailer_cnt (l : List Nat) (s : State) : (prependTrailer l s).cnt = s.cnt := rfl

@[simp] theorem prependTrailer_p (l : List Nat) (s : State) : (prependTrailer l s).p = s.p := rfl

@[simp] theorem prependTrailer_segbuf (l : List Nat) (s : State) : (prependTrailer l s).segbuf = s.segbuf := rfl

@[simp] theorem prependTrailer_text (l : List Nat) (s : State) : (prependTrailer l s).text = s.text := rfl

@[simp] theorem prependTrailer_trl (l : List Nat) (s : State) : (prependTrailer l s).trl = l.map (BitVec.ofNat 16) ++ s.trl := rfl

@[simp] theorem prependTrailer_segs (l : List Nat) (s : State) : (prependTrailer l s).segs = s.segs := rfl

@[simp] theorem prependTrailer_run (l : List Nat) (s : State) : (prependTrailer l s).run = s.run := rfl

@[simp] theorem prependTrailer_err (l : List Nat) (s : State) : (prependTrailer l s).err = s.err := rfl

@[simp] theorem prependTrailer_sa (l : List Nat) (s : State) : (prependTrailer l s).sa = s.sa := rfl

@[simp] theorem prependTrailer_raw (l : List Nat) (s : State) : (prependTrailer l s).raw = s.raw := rfl

/-! ### appendSegment -/

@[simp] theorem appendSegment_cw (s : State) : (appendSegment s).cw = s.cw := rfl

@[simp] theorem appendSegment_n (s : State) : (appendSegment s).n = s.n := rfl

@[simp] theorem appendSegment_supplied (s : State) : (appendSegment s).supplied = s.supplied := rfl

@[simp] theorem appendSegment_pos (s : State) : (appendSegment s).pos = s.pos := rfl

@[simp] theorem appendSegment_mode (s : State) : (appendSegment s).mode = s.mode := rfl

@[simp] theorem appendSegment_phase (s : State) : (appendSegment s).phase = s.phase := rfl

@[simp] theorem appendSegment_shift (s : State) : (appendSegment s).shift = s.shift := rfl

@[simp] theorem appendSegment_ush (s : State) : (appendSegment s).ush = s.ush := rfl

@[simp] theorem appendSegment_b1 (s : State) : (appendSegment s).b1 = s.b1 := rfl

@[simp] theorem appendSegment_b2 (s : State) : (appendSegment s).b2 = s.b2 := rfl

@[simp] theorem appendSegment_v (s : State) : (appendSegment s).v = s.v := rfl

@[simp] theorem appendSegment_c (s : State) : (appendSegment s).c = s.c := rfl

@[simp] theorem appendSegment_e (s : State) : (appendSegment s).e = s.e := rfl

@[simp] theorem appendSegment_d1 (s : State) : (appendSegment s).d1 = s.d1 := rfl

@[simp] theorem appendSegment_d2 (s : State) : (appendSegment s).d2 = s.d2 := rfl

@[simp] theorem appendSegment_cnt (s : State) : (appendSegment s).cnt = s.cnt := rfl

@[simp] theorem appendSegment_p (s : State) : (appendSegment s).p = s.p := rfl

@[simp] theorem appendSegment_segbuf (s : State) : (appendSegment s).segbuf = s.segbuf := rfl

@[simp] theorem appendSegment_text (s : State) : (appendSegment s).text = s.text ++ s.segbuf.map latin1 := rfl

@[simp] theorem appendSegment_trl (s : State) : (appendSegment s).trl = s.trl := rfl

@[simp] theorem appendSegment_segs (s : State) : (appendSegment s).segs = s.segs ++ [s.segbuf] := rfl

@[simp] theorem appendSegment_run (s : State) : (appendSegment s).run = s.run := rfl

@[simp] theorem appendSegment_err (s : State) : (appendSegment s).err = s.err := rfl

@[simp] theorem appendSegment_sa (s : State) : (appendSegment s).sa = s.sa := rfl

@[simp] theorem appendSegment_raw (s : State) : (appendSegment s).raw = s.raw := rfl

/-! ### setUpperShift -/

@[simp] theorem setUpperShift_cw (s : State) : (setUpperShift s).cw = s.cw := rfl

@[simp] theorem setUpperShift_n (s : State) : (setUpperShift s).n = s.n := rfl

@[simp] theorem setUpperShift_supplied (s : State) : (setUpperShift s).supplied = s.supplied := rfl

@[simp] theorem setUpperShift_pos (s : State) : (setUpperShift s).pos = s.pos := rfl

@[simp] theorem setUpperShift_mode (s : State) : (setUpperShift s).mode = s.mode := rfl

@[simp] theorem setUpperShift_phase (s : State) : (setUpperShift s).phase = s.phase := rfl

@[simp] theorem setUpperShift_shift (s : State) : (setUpperShift s).shift = s.shift := rfl

@[simp] theorem setUpperShift_ush (s : State) : (setUpperShift s).ush = true := rfl

@[simp] theorem setUpperShift_b1 (s : State) : (setUpperShift s).b1 = s.b1 := rfl

@[simp] theorem setUpperShift_b2 (s : State) : (setUpperShift s).b2 = s.b2 := rfl

@[simp] theorem setUpperShift_v (s : State) : (setUpperShift s).v = s.v := rfl

@[simp] theorem setUpperShift_c (s : State) : (setUpperShift s).c = s.c := rfl

@[simp] theorem setUpperShift_e (s : State) : (setUpperShift s).e = s.e := rfl

@[simp] theorem setUpperShift_d1 (s : State) : (setUpperShift s).d1 = s.d1 := rfl

@[simp] theorem setUpperShift_d2 (s : State) : (setUpperShift s).d2 = s.d2 := rfl

@[simp] theorem setUpperShift_cnt (s : State) : (setUpperShift s).cnt = s.cnt := rfl

@[simp] theorem setUpperShift_p (s : State) : (setUpperShift s).p = s.p := rfl

@[simp] theorem setUpperShift_segbuf (s : State) : (setUpperShift s).segbuf = s.segbuf := rfl

@[simp] theorem setUpperShift_text (s : State) : (setUpperShift s).text = s.text := rfl

@[simp] theorem setUpperShift_trl (s : State) : (setUpperShift s).trl = s.trl := rfl

@[simp] theorem setUpperShift_segs (s : State) : (setUpperShift s).segs = s.segs := rfl

@[simp] theorem setUpperShift_run (s : State) : (setUpperShift s).run = s.run := rfl

@[simp] theorem setUpperShift_err (s : State) : (setUpperShift s).err = s.err := rfl

@[simp] theorem setUpperShift_sa (s : State) : (setUpperShift s).sa = s.sa := rfl

@[simp] theorem setUpperShift_raw (s : State) : (setUpperShift s).raw = s.raw := rfl

/-! ### emitShifted -/

@[simp] theorem emitShifted_cw (x : Nat) (s : State) : (emitShifted x s).cw = s.cw := by
  unfold emitShifted; split <;> rfl

@[simp] theorem emitShifted_n (x : Nat) (s : State) : (emitShifted x s).n = s.n := by
  unfold emitShifted; split <;> rfl

@[simp] theorem emitShifted_supplied (x : Nat) (s : State) : (emitShifted x s).supplied = s.supplied := by
  unfold emitShifted; split <;> rfl

@[simp] theorem emitShifted_pos (x : Nat) (s : State) : (emitShifted x s).pos = s.pos := by
  unfold emitShifted; split <;> rfl

@[simp] theorem emitShifted_mode (x : Nat) (s : State) : (emitShifted x s).mode = s.mode := by
  unfold emitShifted; split <;> rfl

@[simp] theorem emitShifted_phase (x : Nat) (s : State) : (emitShifted x s).phase = s.phase := by
  unfold emitShifted; split <;> rfl

@[simp] theorem emitShifted_shift (x : Nat) (s : State) : (emitShifted x s).shift = s.shift := by
  unfold emitShifted; split <;> rfl

@[simp] theorem emitShifted_ush (x : Nat) (s : State) : (emitShifted x s).ush = false := by
  unfold emitShifted; split
  · rfl
  · exact eq_false_of_ne_true ‹_›

@[simp] theorem emitShifted_b1 (x : Nat) (s : State) : (emitShifted x s).b1 = s.b1 := by
  unfold emitShifted; split <;> rfl

@[simp] theorem emitShifted_b2 (x : Nat) (s : State) : (emitShifted x s).b2 = s.b2 := by
  unfold emitShifted; split <;> rfl

@[simp] theorem emitShifted_v (x : Nat) (s : State) : (emitShifted x s).v = s.v := by
  unfold emitShifted; split <;> rfl

@[simp] theorem emitShifted_c (x : Nat) (s : State) : (emitShifted x s).c = s.c := by
  unfold emitShifted; split <;> rfl

@[simp] theorem emitShifted_e (x : Nat) (s : State) : (emitShifted x s).e = s.e := by
  unfold emitShifted; split <;> rfl

@[simp] theorem emitShifted_d1 (x : Nat) (s : State) : (emitShifted x s).d1 = s.d1 := by
  unfold emitShifted; split <;> rfl

@[simp] theorem emitShifted_d2 (x : Nat) (s : State) : (emitShifted x s).d2 = s.d2 := by
  unfold emitShifted; split <;> rfl

@[simp] theorem emitShifted_cnt (x : Nat) (s : State) : (emitShifted x s).cnt = s.cnt := by
  unfold emitShifted; split <;> rfl

@[simp] theorem emitShifted_p (x : Nat) (s : State) : (emitShifted x s).p = s.p := by
  unfold emitShifted; split <;> rfl

@[simp] theorem emitShifted_segbuf (x : Nat) (s : State) : (emitShifted x s).segbuf = s.segbuf := by
  unfold emitShifted; split <;> rfl

@[simp] theorem emitShifted_text (x : Nat) (s : State) : (emitShifted x s).text = s.text ++ [BitVec.ofNat 16 (if s.ush then x + 128 else x)] := by
  unfold emitShifted; split <;> rfl

@[simp] theorem emitShifted_trl (x : Nat) (s : State) : (emitShifted x s).trl = s.trl := by
  unfold emitShifted; split <;> rfl

@[simp] theorem emitShifted_segs (x : Nat) (s : State) : (emitShifted x s).segs = s.segs := by
  unfold emitShifted; split <;> rfl

@[simp] theorem emitShifted_run (x : Nat) (s : State) : (emitShifted x s).run = s.run := by
  unfold emitShifted; split <;> rfl

@[simp] theorem emitShifted_err (x : Nat) (s : State) : (emitShifted x s).err = s.err := by
  unfold emitShifted; split <;> rfl

@[simp] theorem emitShifted_sa (x : Nat) (s : State) : (emitShifted x s).sa = s.sa := by
  unfold emitShifted; split <;> rfl

@[simp] theorem emitShifted_raw (x : Nat) (s : State) : (emitShifted x s).raw = s.raw := by
  unfold emitShifted; split <;> rfl

/-! ### setShift -/

@[simp] theorem setShift_cw (x : Nat) (s : State) : (setShift x s).cw = s.cw := rfl

@[simp] theorem setShift_n (x : Nat) (s : State) : (setShift x s).n = s.n := rfl

@[simp] theorem setShift_supplied (x : Nat) (s : State) : (setShift x s).supplied = s.supplied := rfl

@[simp] theorem setShift_pos (x : Nat) (s : State) : (setShift x s).pos = s.pos := rfl

@[simp] theorem setShift_mode (x : Nat) (s : State) : (setShift x s).mode = s.mode := rfl

@[simp] theorem setShift_phase (x : Nat) (s : State) : (setShift x s).phase = s.phase := rfl

@[simp] theorem setShift_shift (x : Nat) (s : State) : (setShift x s).shift = pendingShift x := rfl

@[simp] theorem setShift_ush (x : Nat) (s : State) : (setShift x s).ush = s.ush := rfl

@[simp] theorem setShift_b1 (x : Nat) (s : State) : (setShift x s).b1 = s.b1 := rfl

@[simp] theorem setShift_b2 (x : Nat) (s : State) : (setShift x s).b2 = s.b2 := rfl

@[simp] theorem setShift_v (x : Nat) (s : State) : (setShift x s).v = s.v := rfl

@[simp] theorem setShift_c (x : Nat) (s : State) : (setShift x s).c = s.c := rfl

@[simp] theorem setShift_e (x : Nat) (s : State) : (setShift x s).e = s.e := rfl

@[simp] theorem setShift_d1 (x : Nat) (s : State) : (setShift x s).d1 = s.d1 := rfl

@[simp] theorem setShift_d2 (x : Nat) (s : State) : (setShift x s).d2 = s.d2 := rfl

@[simp] theorem setShift_cnt (x : Nat) (s : State) : (setShift x s).cnt = s.cnt := rfl

@[simp] theorem setShift_p (x : Nat) (s : State) : (setShift x s).p = s.p := rfl

@[simp] theorem setShift_segbuf (x : Nat) (s : State) : (setShift x s).segbuf = s.segbuf := rfl

@[simp] theorem setShift_text (x : Nat) (s : State) : (setShift x s).text = s.text := rfl

@[simp] theorem setShift_trl (x : Nat) (s : State) : (setShift x s).trl = s.trl := rfl

@[simp] theorem setShift_segs (x : Nat) (s : State) : (setShift x s).segs = s.segs := rfl

@[simp] theorem setShift_run (x : Nat) (s : State) : (setShift x s).run = s.run := rfl

@[simp] theorem setShift_err (x : Nat) (s : State) : (setShift x s).err = s.err := rfl

@[simp] theorem setShift_sa (x : Nat) (s : State) : (setShift x s).sa = s.sa := rfl

@[simp] theorem setShift_raw (x : Nat) (s : State) : (setShift x s).raw = s.raw := rfl

/-! ### clearShift -/

@[simp] theorem clearShift_cw (s : State) : (clearShift s).cw = s.cw := rfl

@[simp] theorem clearShift_n (s : State) : (clearShift s).n = s.n := rfl

@[simp] theorem clearShift_supplied (s : State) : (clearShift s).supplied = s.supplied := rfl

@[simp] theorem clearShift_pos (s : State) : (clearShift s).pos = s.pos := rfl

@[simp] theorem clearShift_mode (s : State) : (clearShift s).mode = s.mode := rfl

@[simp] theorem clearShift_phase (s : State) : (clearShift s).phase = s.phase := rfl

@[simp] theorem clearShift_shift (s : State) : (clearShift s).shift = .s0 := rfl

@[simp] theorem clearShift_ush (s : State) : (clearShift s).ush = s.ush := rfl

@[simp] theorem clearShift_b1 (s : State) : (clearShift s).b1 = s.b1 := rfl

@[simp] theorem clearShift_b2 (s : State) : (clearShift s).b2 = s.b2 := rfl

@[simp] theorem clearShift_v (s : State) : (clearShift s).v = s.v := rfl

@[simp] theorem clearShift_c (s : State) : (clearShift s).c = s.c := rfl

@[simp] theorem clearShift_e (s : State) : (clearShift s).e = s.e := rfl

@[simp] theorem clearShift_d1 (s : State) : (clearShift s).d1 = s.d1 := rfl

@[simp] theorem clearShift_d2 (s : State) : (clearShift s).d2 = s.d2 := rfl

@[simp] theorem clearShift_cnt (s : State) : (clearShift s).cnt = s.cnt := rfl

@[simp] theorem clearShift_p (s : State) : (clearShift s).p = s.p := rfl

@[simp] theorem clearShift_segbuf (s : State) : (clearShift s).segbuf = s.segbuf := rfl

@[simp] theorem clearShift_text (s : State) : (clearShift s).text = s.text := rfl

@[simp] theorem clearShift_trl (s : State) : (clearShift s).trl = s.trl := rfl

@[simp] theorem clearShift_segs (s : State) : (clearShift s).segs = s.segs := rfl

@[simp] theorem clearShift_run (s : State) : (clearShift s).run = s.run := rfl

@[simp] theorem clearShift_err (s : State) : (clearShift s).err = s.err := rfl

@[simp] theorem clearShift_sa (s : State) : (clearShift s).sa = s.sa := rfl

@[simp] theorem clearShift_raw (s : State) : (clearShift s).raw = s.raw := rfl

/-! ### nextPlace -/

@[simp] theorem nextPlace_cw (s : State) : (nextPlace s).cw = s.cw := by
  unfold nextPlace; split <;> rfl

@[simp] theorem nextPlace_n (s : State) : (nextPlace s).n = s.n := by
  unfold nextPlace; split <;> rfl

@[simp] theorem nextPlace_supplied (s : State) : (nextPlace s).supplied = s.supplied := by
  unfold nextPlace; split <;> rfl

@[simp] theorem nextPlace_pos (s : State) : (nextPlace s).pos = s.pos := by
  unfold nextPlace; split <;> rfl

@[simp] theorem nextPlace_mode (s : State) : (nextPlace s).mode = s.mode := by
  unfold nextPlace; split <;> rfl

@[simp] theorem nextPlace_shift (s : State) : (nextPlace s).shift = s.shift := by
  unfold nextPlace; split <;> rfl

@[simp] theorem nextPlace_ush (s : State) : (nextPlace s).ush = s.ush := by
  unfold nextPlace; split <;> rfl

@[simp] theorem nextPlace_b1 (s : State) : (nextPlace s).b1 = s.b1 := by
  unfold nextPlace; split <;> rfl

@[simp] theorem nextPlace_b2 (s : State) : (nextPlace s).b2 = s.b2 := by
  unfold nextPlace; split <;> rfl

@[simp] theorem nextPlace_v (s : State) : (nextPlace s).v = s.v := by
  unfold nextPlace; split <;> rfl

@[simp] theorem nextPlace_c (s : State) : (nextPlace s).c = s.c := by
  unfold nextPlace; split <;> rfl

@[simp] theorem nextPlace_e (s : State) : (nextPlace s).e = s.e := by
  unfold nextPlace; split <;> rfl

@[simp] theorem nextPlace_d1 (s : State) : (nextPlace s).d1 = s.d1 := by
  unfold nextPlace; split <;> rfl

@[simp] theorem nextPlace_d2 (s : State) : (nextPlace s).d2 = s.d2 := by
  unfold nextPlace; split <;> rfl

@[simp] theorem nextPlace_cnt (s : State) : (nextPlace s).cnt = s.cnt := by
  unfold nextPlace; split <;> rfl

@[simp] theorem nextPlace_p (s : State) : (nextPlace s).p = s.p := by
  unfold nextPlace; split <;> rfl

@[simp] theorem nextPlace_segbuf (s : State) : (nextPlace s).segbuf = s.segbuf := by
  unfold nextPlace; split <;> rfl

@[simp] theorem nextPlace_text (s : State) : (nextPlace s).text = s.text := by
  unfold nextPlace; split <;> rfl

@[simp] theorem nextPlace_trl (s : State) : (nextPlace s).trl = s.trl := by
  unfold nextPlace; split <;> rfl

@[simp] theorem nextPlace_segs (s : State) : (nextPlace s).segs = s.segs := by
  unfold nextPlace; split <;> rfl

@[simp] theorem nextPlace_run (s : State) : (nextPlace s).run = s.run := by
  unfold nextPlace; split <;> rfl

@[simp] theorem nextPlace_err (s : State) : (nextPlace s).err = s.err := by
  unfold nextPlace; split <;> rfl

@[simp] theorem nextPlace_sa (s : State) : (nextPlace s).sa = s.sa := by
  unfold nextPlace; split <;> rfl

@[simp] theorem nextPlace_raw (s : State) : (nextPlace s).raw = s.raw := by
  unfold nextPlace; split <;> rfl

/-! ### complete -/

@[simp] theorem complete_cw (s : State) : (complete s).cw = s.cw := rfl

@[simp] theorem complete_n (s : State) : (complete s).n = s.n := rfl

@[simp] theorem complete_supplied (s : State) : (complete s).supplied = s.supplied := rfl

@[simp] theorem complete_pos (s : State) : (complete s).pos = s.pos := rfl

@[simp] theorem complete_mode (s : State) : (complete s).mode = s.mode := rfl

@[simp] theorem complete_phase (s : State) : (complete s).phase = s.phase := rfl

@[simp] theorem complete_shift (s : State) : (complete s).shift = s.shift := rfl

@[simp] theorem complete_ush (s : State) : (complete s).ush = s.ush := rfl

@[simp] theorem complete_b1 (s : State) : (complete s).b1 = s.b1 := rfl

@[simp] theorem complete_b2 (s : State) : (complete s).b2 = s.b2 := rfl

@[simp] theorem complete_v (s : State) : (complete s).v = s.v := rfl

@[simp] theorem complete_c (s : State) : (complete s).c = s.c := rfl

@[simp] theorem complete_e (s : State) : (complete s).e = s.e := rfl

@[simp] theorem complete_d1 (s : State) : (complete s).d1 = s.d1 := rfl

@[simp] theorem complete_d2 (s : State) : (complete s).d2 = s.d2 := rfl

@[simp] theorem complete_cnt (s : State) : (complete s).cnt = s.cnt := rfl

@[simp] theorem complete_p (s : State) : (complete s).p = s.p := rfl

@[simp] theorem complete_segbuf (s : State) : (complete s).segbuf = s.segbuf := rfl

@[simp] theorem complete_trl (s : State) : (complete s).trl = s.trl := rfl

@[simp] theorem complete_segs (s : State) : (complete s).segs = s.segs := rfl

@[simp] theorem complete_run (s : State) : (complete s).run = .done := rfl

@[simp] theorem complete_err (s : State) : (complete s).err = s.err := rfl

@[simp] theorem complete_sa (s : State) : (complete s).sa = s.sa := rfl

@[simp] theorem complete_raw (s : State) : (complete s).raw = s.cw.bytes := rfl

/-! ### enterAscii -/

@[simp] theorem enterAscii_cw (s : State) : (enterAscii s).cw = s.cw := rfl

@[simp] theorem enterAscii_n (s : State) : (enterAscii s).n = s.n := rfl

@[simp] theorem enterAscii_supplied (s : State) : (enterAscii s).supplied = s.supplied := rfl

@[simp] theorem enterAscii_pos (s : State) : (enterAscii s).pos = s.pos := rfl

@[simp] theorem enterAscii_mode (s : State) : (enterAscii s).mode = s.mode := rfl

@[simp] theorem enterAscii_phase (s : State) : (enterAscii s).phase = .ascii := rfl

@[simp] theorem enterAscii_shift (s : State) : (enterAscii s).shift = s.shift := rfl

@[simp] theorem enterAscii_ush (s : State) : (enterAscii s).ush = false := rfl

@[simp] theorem enterAscii_b1 (s : State) : (enterAscii s).b1 = s.b1 := rfl

@[simp] theorem enterAscii_b2 (s : State) : (enterAscii s).b2 = s.b2 := rfl

@[simp] theorem enterAscii_v (s : State) : (enterAscii s).v = s.v := rfl

@[simp] theorem enterAscii_c (s : State) : (enterAscii s).c = s.c := rfl

@[simp] theorem enterAscii_e (s : State) : (enterAscii s).e = s.e := rfl

@[simp] theorem enterAscii_d1 (s : State) : (enterAscii s).d1 = s.d1 := rfl

@[simp] theorem enterAscii_d2 (s : State) : (enterAscii s).d2 = s.d2 := rfl

@[simp] theorem enterAscii_cnt (s : State) : (enterAscii s).cnt = s.cnt := rfl

@[simp] theorem enterAscii_p (s : State) : (enterAscii s).p = s.p := rfl

@[simp] theorem enterAscii_segbuf (s : State) : (enterAscii s).segbuf = s.segbuf := rfl

@[simp] theorem enterAscii_text (s : State) : (enterAscii s).text = s.text := rfl

@[simp] theorem enterAscii_trl (s : State) : (enterAscii s).trl = s.trl := rfl

@[simp] theorem enterAscii_segs (s : State) : (enterAscii s).segs = s.segs := rfl

@[simp] theorem enterAscii_run (s : State) : (enterAscii s).run = s.run := rfl

@[simp] theorem enterAscii_err (s : State) : (enterAscii s).err = s.err := rfl

@[simp] theorem enterAscii_sa (s : State) : (enterAscii s).sa = s.sa := rfl

@[simp] theorem enterAscii_raw (s : State) : (enterAscii s).raw = s.raw := rfl

/-! ### enterTriple -/

@[simp] theorem enterTriple_cw (m : TripleMode) (s : State) : (enterTriple m s).cw = s.cw := rfl

@[simp] theorem enterTriple_n (m : TripleMode) (s : State) : (enterTriple m s).n = s.n := rfl

@[simp] theorem enterTriple_supplied (m : TripleMode) (s : State) : (enterTriple m s).supplied = s.supplied := rfl

@[simp] theorem enterTriple_pos (m : TripleMode) (s : State) : (enterTriple m s).pos = s.pos := rfl

@[simp] theorem enterTriple_mode (m : TripleMode) (s : State) : (enterTriple m s).mode = s.mode := rfl

@[simp] theorem enterTriple_phase (m : TripleMode) (s : State) : (enterTriple m s).phase = .triple m := rfl

@[simp] theorem enterTriple_shift (m : TripleMode) (s : State) : (enterTriple m s).shift = .s0 := rfl

@[simp] theorem enterTriple_ush (m : TripleMode) (s : State) : (enterTriple m s).ush = false := rfl

@[simp] theorem enterTriple_b1 (m : TripleMode) (s : State) : (enterTriple m s).b1 = s.b1 := rfl

@[simp] theorem enterTriple_b2 (m : TripleMode) (s : State) : (enterTriple m s).b2 = s.b2 := rfl

@[simp] theorem enterTriple_v (m : TripleMode) (s : State) : (enterTriple m s).v = s.v := rfl

@[simp] theorem enterTriple_c (m : TripleMode) (s : State) : (enterTriple m s).c = s.c := rfl

@[simp] theorem enterTriple_e (m : TripleMode) (s : State) : (enterTriple m s).e = s.e := rfl

@[simp] theorem enterTriple_d1 (m : TripleMode) (s : State) : (enterTriple m s).d1 = s.d1 := rfl

@[simp] theorem enterTriple_d2 (m : TripleMode) (s : State) : (enterTriple m s).d2 = s.d2 := rfl

@[simp] theorem enterTriple_cnt (m : TripleMode) (s : State) : (enterTriple m s).cnt = s.cnt := rfl

@[simp] theorem enterTriple_p (m : TripleMode) (s : State) : (enterTriple m s).p = s.p := rfl

@[simp] theorem enterTriple_segbuf (m : TripleMode) (s : State) : (enterTriple m s).segbuf = s.segbuf := rfl

@[simp] theorem enterTriple_text (m : TripleMode) (s : State) : (enterTriple m s).text = s.text := rfl

@[simp] theorem enterTriple_trl (m : TripleMode) (s : State) : (enterTriple m s).trl = s.trl := rfl

@[simp] theorem enterTriple_segs (m : TripleMode) (s : State) : (enterTriple m s).segs = s.segs := rfl

@[simp] theorem enterTriple_run (m : TripleMode) (s : State) : (enterTriple m s).run = s.run := rfl

@[simp] theorem enterTriple_err (m : TripleMode) (s : State) : (enterTriple m s).err = s.err := rfl

@[simp] theorem enterTriple_sa (m : TripleMode) (s : State) : (enterTriple m s).sa = s.sa := rfl

@[simp] theorem enterTriple_raw (m : TripleMode) (s : State) : (enterTriple m s).raw = s.raw := rfl

/-! ### enterSixbit -/

@[simp] theorem enterSixbit_cw (s : State) : (enterSixbit s).cw = s.cw := rfl

@[simp] theorem enterSixbit_n (s : State) : (enterSixbit s).n = s.n := rfl

@[simp] theorem enterSixbit_supplied (s : State) : (enterSixbit s).supplied = s.supplied := rfl

@[simp] theorem enterSixbit_pos (s : State) : (enterSixbit s).pos = s.pos := rfl

@[simp] theorem enterSixbit_mode (s : State) : (enterSixbit s).mode = s.mode := rfl

@[simp] theorem enterSixbit_phase (s : State) : (enterSixbit s).phase = .sixbit 0 := rfl

@[simp] theorem enterSixbit_shift (s : State) : (enterSixbit s).shift = s.shift := rfl

@[simp] theorem enterSixbit_ush (s : State) : (enterSixbit s).ush = s.ush := rfl

@[simp] theorem enterSixbit_b1 (s : State) : (enterSixbit s).b1 = s.b1 := rfl

@[simp] theorem enterSixbit_b2 (s : State) : (enterSixbit s).b2 = s.b2 := rfl

@[simp] theorem enterSixbit_v (s : State) : (enterSixbit s).v = s.v := rfl

@[simp] theorem enterSixbit_c (s : State) : (enterSixbit s).c = s.c := rfl

@[simp] theorem enterSixbit_e (s : State) : (enterSixbit s).e = s.e := rfl

@[simp] theorem enterSixbit_d1 (s : State) : (enterSixbit s).d1 = s.d1 := rfl

@[simp] theorem enterSixbit_d2 (s : State) : (enterSixbit s).d2 = s.d2 := rfl

@[simp] theorem enterSixbit_cnt (s : State) : (enterSixbit s).cnt = s.cnt := rfl

@[simp] theorem enterSixbit_p (s : State) : (enterSixbit s).p = s.p := rfl

@[simp] theorem enterSixbit_segbuf (s : State) : (enterSixbit s).segbuf = s.segbuf := rfl

@[simp] theorem enterSixbit_text (s : State) : (enterSixbit s).text = s.text := rfl

@[simp] theorem enterSixbit_trl (s : State) : (enterSixbit s).trl = s.trl := rfl

@[simp] theorem enterSixbit_segs (s : State) : (enterSixbit s).segs = s.segs := rfl

@[simp] theorem enterSixbit_run (s : State) : (enterSixbit s).run = s.run := rfl

@[simp] theorem enterSixbit_err (s : State) : (enterSixbit s).err = s.err := rfl

@[simp] theorem enterSixbit_sa (s : State) : (enterSixbit s).sa = s.sa := rfl

@[simp] theorem enterSixbit_raw (s : State) : (enterSixbit s).raw = s.raw := rfl

/-! ### enterRaw -/

@[simp] theorem enterRaw_cw (s : State) : (enterRaw s).cw = s.cw := rfl

@[simp] theorem enterRaw_n (s : State) : (enterRaw s).n = s.n := rfl

@[simp] theorem enterRaw_supplied (s : State) : (enterRaw s).supplied = s.supplied := rfl

@[simp] theorem enterRaw_pos (s : State) : (enterRaw s).pos = s.pos := rfl

@[simp] theorem enterRaw_mode (s : State) : (enterRaw s).mode = s.mode := rfl

@[simp] theorem enterRaw_phase (s : State) : (enterRaw s).phase = .rawHeader := rfl

@[simp] theorem enterRaw_shift (s : State) : (enterRaw s).shift = s.shift := rfl

@[simp] theorem enterRaw_ush (s : State) : (enterRaw s).ush = s.ush := rfl

@[simp] theorem enterRaw_b1 (s : State) : (enterRaw s).b1 = s.b1 := rfl

@[simp] theorem enterRaw_b2 (s : State) : (enterRaw s).b2 = s.b2 := rfl

@[simp] theorem enterRaw_v (s : State) : (enterRaw s).v = s.v := rfl

@[simp] theorem enterRaw_c (s : State) : (enterRaw s).c = s.c := rfl

@[simp] theorem enterRaw_e (s : State) : (enterRaw s).e = s.e := rfl

@[simp] theorem enterRaw_d1 (s : State) : (enterRaw s).d1 = s.d1 := rfl

@[simp] theorem enterRaw_d2 (s : State) : (enterRaw s).d2 = s.d2 := rfl

@[simp] theorem enterRaw_cnt (s : State) : (enterRaw s).cnt = s.cnt := rfl

@[simp] theorem enterRaw_p (s : State) : (enterRaw s).p = codewordPosition s := rfl

@[simp] theorem enterRaw_segbuf (s : State) : (enterRaw s).segbuf = s.segbuf := rfl

@[simp] theorem enterRaw_text (s : State) : (enterRaw s).text = s.text := rfl

@[simp] theorem enterRaw_trl (s : State) : (enterRaw s).trl = s.trl := rfl

@[simp] theorem enterRaw_segs (s : State) : (enterRaw s).segs = s.segs := rfl

@[simp] theorem enterRaw_run (s : State) : (enterRaw s).run = s.run := rfl

@[simp] theorem enterRaw_err (s : State) : (enterRaw s).err = s.err := rfl

@[simp] theorem enterRaw_sa (s : State) : (enterRaw s).sa = s.sa := rfl

@[simp] theorem enterRaw_raw (s : State) : (enterRaw s).raw = s.raw := rfl

/-! ### loadBuffer -/

@[simp] theorem loadBuffer_cw (l : List Byte) (s : State) : (loadBuffer l s).cw = Memory.ofBytes l := rfl

@[simp] theorem loadBuffer_n (l : List Byte) (s : State) : (loadBuffer l s).n = l.length := rfl

@[simp] theorem loadBuffer_supplied (l : List Byte) (s : State) : (loadBuffer l s).supplied = true := rfl

@[simp] theorem loadBuffer_pos (l : List Byte) (s : State) : (loadBuffer l s).pos = s.pos := rfl

@[simp] theorem loadBuffer_mode (l : List Byte) (s : State) : (loadBuffer l s).mode = s.mode := rfl

@[simp] theorem loadBuffer_phase (l : List Byte) (s : State) : (loadBuffer l s).phase = s.phase := rfl

@[simp] theorem loadBuffer_shift (l : List Byte) (s : State) : (loadBuffer l s).shift = s.shift := rfl

@[simp] theorem loadBuffer_ush (l : List Byte) (s : State) : (loadBuffer l s).ush = s.ush := rfl

@[simp] theorem loadBuffer_b1 (l : List Byte) (s : State) : (loadBuffer l s).b1 = s.b1 := rfl

@[simp] theorem loadBuffer_b2 (l : List Byte) (s : State) : (loadBuffer l s).b2 = s.b2 := rfl

@[simp] theorem loadBuffer_v (l : List Byte) (s : State) : (loadBuffer l s).v = s.v := rfl

@[simp] theorem loadBuffer_c (l : List Byte) (s : State) : (loadBuffer l s).c = s.c := rfl

@[simp] theorem loadBuffer_e (l : List Byte) (s : State) : (loadBuffer l s).e = s.e := rfl

@[simp] theorem loadBuffer_d1 (l : List Byte) (s : State) : (loadBuffer l s).d1 = s.d1 := rfl

@[simp] theorem loadBuffer_d2 (l : List Byte) (s : State) : (loadBuffer l s).d2 = s.d2 := rfl

@[simp] theorem loadBuffer_cnt (l : List Byte) (s : State) : (loadBuffer l s).cnt = s.cnt := rfl

@[simp] theorem loadBuffer_p (l : List Byte) (s : State) : (loadBuffer l s).p = s.p := rfl

@[simp] theorem loadBuffer_segbuf (l : List Byte) (s : State) : (loadBuffer l s).segbuf = s.segbuf := rfl

@[simp] theorem loadBuffer_text (l : List Byte) (s : State) : (loadBuffer l s).text = s.text := rfl

@[simp] theorem loadBuffer_trl (l : List Byte) (s : State) : (loadBuffer l s).trl = s.trl := rfl

@[simp] theorem loadBuffer_segs (l : List Byte) (s : State) : (loadBuffer l s).segs = s.segs := rfl

@[simp] theorem loadBuffer_run (l : List Byte) (s : State) : (loadBuffer l s).run = s.run := rfl

@[simp] theorem loadBuffer_err (l : List Byte) (s : State) : (loadBuffer l s).err = s.err := rfl

@[simp] theorem loadBuffer_sa (l : List Byte) (s : State) : (loadBuffer l s).sa = s.sa := rfl

@[simp] theorem loadBuffer_raw (l : List Byte) (s : State) : (loadBuffer l s).raw = s.raw := rfl

/-! ### launched -/

@[simp] theorem launched_cw (s : State) : (launched s).cw = s.cw := rfl

@[simp] theorem launched_n (s : State) : (launched s).n = s.n := rfl

@[simp] theorem launched_supplied (s : State) : (launched s).supplied = s.supplied := rfl

@[simp] theorem launched_pos (s : State) : (launched s).pos = 0 := rfl

@[simp] theorem launched_mode (s : State) : (launched s).mode = .ascii := rfl

@[simp] theorem launched_phase (s : State) : (launched s).phase = .loop := rfl

@[simp] theorem launched_shift (s : State) : (launched s).shift = .s0 := rfl

@[simp] theorem launched_ush (s : State) : (launched s).ush = false := rfl

@[simp] theorem launched_b1 (s : State) : (launched s).b1 = s.b1 := rfl

@[simp] theorem launched_b2 (s : State) : (launched s).b2 = s.b2 := rfl

@[simp] theorem launched_v (s : State) : (launched s).v = s.v := rfl

@[simp] theorem launched_c (s : State) : (launched s).c = s.c := rfl

@[simp] theorem launched_e (s : State) : (launched s).e = s.e := rfl

@[simp] theorem launched_d1 (s : State) : (launched s).d1 = s.d1 := rfl

@[simp] theorem launched_d2 (s : State) : (launched s).d2 = s.d2 := rfl

@[simp] theorem launched_cnt (s : State) : (launched s).cnt = s.cnt := rfl

@[simp] theorem launched_p (s : State) : (launched s).p = s.p := rfl

@[simp] theorem launched_segbuf (s : State) : (launched s).segbuf = s.segbuf := rfl

@[simp] theorem launched_text (s : State) : (launched s).text = [] := rfl

@[simp] theorem launched_trl (s : State) : (launched s).trl = [] := rfl

@[simp] theorem launched_segs (s : State) : (launched s).segs = [] := rfl

@[simp] theorem launched_run (s : State) : (launched s).run = .busy := rfl

@[simp] theorem launched_err (s : State) : (launched s).err = .clear := rfl

@[simp] theorem launched_sa (s : State) : (launched s).sa = s.sa := rfl

@[simp] theorem launched_raw (s : State) : (launched s).raw = [] := rfl

/-! ### The two conditional fields -/

@[simp] theorem nextPlace_phase (s : State) :
    (nextPlace s).phase = match s.phase with | .sixbit k => .sixbit (k + 1) | ph => ph := by
  unfold nextPlace; split <;> simp_all

@[simp] theorem complete_text (s : State) : (complete s).text = s.text ++ s.trl := by
  unfold complete
  cases s.trl <;> simp

end Sys2Proof.Machine
end

