-- ==== Sys2Proof/Laws/Ops.lean ====
section
/-! SUPPORT. What the shared operations do, said once: the buffer and its canonical form, the bit view, the bounded reads, and how a procedure
settles. -/

namespace Sys2Proof.Machine

/-! ## The buffer -/

theorem read_ofBytesFrom (bs : List Byte) (k i : Nat) :
    (Memory.ofBytesFrom k bs).read i = if k ≤ i then bs[i - k]? else none := by
  induction bs generalizing k with
  | nil => simp [Memory.ofBytesFrom, Memory.read]
  | cons b bs ih =>
    rw [Memory.ofBytesFrom, Memory.read, ih]
    by_cases h : i = k
    · simp [h]
    · by_cases hk : k ≤ i
      · obtain ⟨d, rfl⟩ : ∃ d, i = k + 1 + d := ⟨i - (k + 1), by omega⟩
        have e : k + 1 + d - k = d + 1 := by omega
        simp [h, hk, e]
      · have : ¬ k + 1 ≤ i := by omega
        simp [h, hk, this]

theorem read_ofBytes (bs : List Byte) (i : Nat) : (Memory.ofBytes bs).read i = bs[i]? := by
  simp [Memory.ofBytes, read_ofBytesFrom]

theorem indices_ofBytesFrom (bs : List Byte) (k : Nat) :
    (Memory.ofBytesFrom k bs).map Prod.fst = List.range' k bs.length := by
  induction bs generalizing k with
  | nil => rfl
  | cons b bs ih => simp [Memory.ofBytesFrom, ih, List.range'_succ]

theorem indices_ofBytes (bs : List Byte) : (Memory.ofBytes bs).map Prod.fst = List.range bs.length := by
  simp [Memory.ofBytes, indices_ofBytesFrom, List.range_eq_range']

theorem bytes_ofBytes (bs : List Byte) : (Memory.ofBytes bs).bytes = bs := by
  have h : ∀ k, (Memory.ofBytesFrom k bs).map Prod.snd = bs := by
    induction bs with
    | nil => intro k; rfl
    | cons b bs ih => intro k; simp [Memory.ofBytesFrom, ih]
  exact h 0

/-- A buffer that lists an interval of indices is in canonical form. -/
theorem wf_of_indices (m : Memory) (k n : Nat) (h : m.map Prod.fst = List.range' k n) : m.wf = true := by
  induction m generalizing k n with
  | nil => rfl
  | cons c m ih =>
    cases n with
    | zero => simp at h
    | succ n =>
      rw [List.range'_succ, List.map_cons, List.cons.injEq] at h
      have hw := ih (k + 1) n h.2
      cases m with
      | nil => rfl
      | cons d m =>
        cases n with
        | zero => simp at h
        | succ n =>
          have hd := h.2
          rw [List.range'_succ, List.map_cons, List.cons.injEq] at hd
          have hlt : c.1 < d.1 := by omega
          obtain ⟨a, x⟩ := c
          obtain ⟨b, y⟩ := d
          simpa [Memory.wf, hlt] using hw

theorem ofBytes_wf (bs : List Byte) : (Memory.ofBytes bs).wf = true :=
  wf_of_indices _ 0 _ (indices_ofBytesFrom bs 0)

/-- A state whose buffer is filled holds it in canonical form. -/
theorem BufferFilled.wf {s : State} (h : BufferFilled s) : s.cw.wf = true :=
  wf_of_indices _ 0 s.n (by rw [← List.range_eq_range']; exact h)

theorem read_of_mem (m : Memory) (i : Nat) (h : i ∈ m.map Prod.fst) : ∃ b, m.read i = some b := by
  induction m with
  | nil => simp at h
  | cons c m ih =>
    obtain ⟨a, x⟩ := c
    by_cases e : i = a
    · exact ⟨x, by simp [Memory.read, e]⟩
    · obtain ⟨b, hb⟩ := ih (by simpa [e] using h)
      exact ⟨b, by simpa [Memory.read, e] using hb⟩

theorem BufferFilled.read {s : State} (h : BufferFilled s) {i : Nat} (hi : i < s.n) :
    ∃ b, s.cw.read i = some b :=
  read_of_mem _ _ (by rw [h]; simpa using hi)

/-- The bytes of a buffer that lists an interval of indices stand at these indices. -/
theorem read_eq_bytes_of_indices (m : Memory) (k n : Nat) (h : m.map Prod.fst = List.range' k n) (i : Nat) :
    m.read (k + i) = m.bytes[i]? := by
  induction m generalizing k n i with
  | nil => simp [Memory.read, Memory.bytes]
  | cons c m ih =>
    cases n with
    | zero => simp at h
    | succ n =>
      rw [List.range'_succ, List.map_cons, List.cons.injEq] at h
      obtain ⟨a, x⟩ := c
      obtain ⟨rfl, ht⟩ := h
      cases i with
      | zero => simp [Memory.read, Memory.bytes]
      | succ i =>
        have := ih (a + 1) n ht i
        rw [show a + 1 + i = a + (i + 1) by omega] at this
        simpa [Memory.read, Memory.bytes] using this

theorem BufferFilled.read_eq_bytes {s : State} (h : BufferFilled s) (i : Nat) : s.cw.read i = s.cw.bytes[i]? := by
  have := read_eq_bytes_of_indices s.cw 0 s.n (by rw [← List.range_eq_range']; exact h) i
  rwa [Nat.zero_add] at this

/-! ## The bit view -/

theorem memRead_lt {m : Memory} {a n v : Nat} (h : memRead m a n = some v) : v < 2 ^ n := by
  induction n generalizing v with
  | zero => simp [memRead] at h; omega
  | succ n ih =>
    rw [memRead] at h
    split at h
    · rename_i hi b e1 _
      have := ih e1
      simp only [Option.some.injEq] at h
      cases b <;> simp at h <;> omega
    · simp at h

theorem memRead_succ {m : Memory} {a n v : Nat} {b : Byte} (h : memRead m a n = some v)
    (hb : m.read ((a + n) / 8) = some b) :
    memRead m a (n + 1) = some (2 * v + (b.getLsbD (7 - (a + n) % 8)).toNat) := by
  simp [memRead, h, streamBit, hb]

theorem BufferFilled.memRead {s : State} (h : BufferFilled s) {a n : Nat} (hn : a + n ≤ 8 * s.n) :
    ∃ v, memRead s.cw a n = some v := by
  induction n with
  | zero => exact ⟨0, rfl⟩
  | succ n ih =>
    obtain ⟨v, hv⟩ := ih (by omega)
    obtain ⟨b, hb⟩ := h.read (i := (a + n) / 8) (by omega)
    exact ⟨_, memRead_succ hv hb⟩

/-! ## Bounded reads -/

theorem readBits_ok_iff {n v : Nat} {s t : State} :
    readBits n s = .ok (v, t) ↔
      n ≤ available s ∧ memRead s.cw s.pos n = some v ∧ t = { s with pos := s.pos + n } := by
  unfold readBits raise
  constructor
  · intro h
    split at h
    · simp at h
    · split at h
      · simp only [Except.ok.injEq, Prod.mk.injEq] at h
        obtain ⟨rfl, rfl⟩ := h
        exact ⟨by omega, by assumption, rfl⟩
      · simp at h
  · rintro ⟨h1, h2, rfl⟩
    rw [if_neg (by omega), h2]

theorem readBits_of_memRead {n v : Nat} {s : State} (h1 : n ≤ available s) (h2 : memRead s.cw s.pos n = some v) :
    readBits n s = .ok (v, { s with pos := s.pos + n }) :=
  readBits_ok_iff.mpr ⟨h1, h2, rfl⟩

theorem readBits_short {n : Nat} {s : State} (h : available s < n) : readBits n s = raise .outOfData s := by
  simp [readBits, h]

/-- Everything a bounded read can do. -/
theorem readBits_cases (n : Nat) (s : State) :
    (available s < n ∧ readBits n s = .error (.raised .outOfData s)) ∨
    (n ≤ available s ∧ ∃ v, v < 2 ^ n ∧ memRead s.cw s.pos n = some v ∧
      readBits n s = .ok (v, { s with pos := s.pos + n })) ∨
    (n ≤ available s ∧ memRead s.cw s.pos n = none ∧ readBits n s = .error (.faulted .cwHole)) := by
  by_cases h : available s < n
  · exact .inl ⟨h, readBits_short h⟩
  · cases hm : Sys2Proof.Machine.memRead s.cw s.pos n with
    | some v =>
      exact .inr (.inl ⟨by omega, v, memRead_lt hm, rfl, readBits_of_memRead (by omega) hm⟩)
    | none => exact .inr (.inr ⟨by omega, rfl, by simp [readBits, h, hm]⟩)

/-- In a state whose buffer is filled a bounded read returns a value or raises; it never stops. -/
theorem BufferFilled.readBits {s : State} (h : BufferFilled s) (hc : CursorInside s) {n : Nat}
    (hn : n ≤ available s) :
    ∃ v, v < 2 ^ n ∧ Machine.memRead s.cw s.pos n = some v ∧
      readBits n s = .ok (v, { s with pos := s.pos + n }) := by
  have hc' : s.pos ≤ 8 * s.n := hc
  obtain ⟨v, hv⟩ := h.memRead (a := s.pos) (n := n) (by unfold available at hn; omega)
  exact ⟨v, memRead_lt hv, hv, readBits_of_memRead hn hv⟩

theorem readRaw_ok_iff {b : Byte} {s t : State} :
    readRaw s = .ok (b, t) ↔
      8 ≤ available s ∧ ∃ w, memRead s.cw s.pos 8 = some w ∧ b = derandomize (BitVec.ofNat 8 w) s.p ∧
        t = { s with pos := s.pos + 8, p := s.p + 1 } := by
  unfold readRaw
  rcases readBits_cases 8 s with ⟨h, e⟩ | ⟨h, v, -, hm, e⟩ | ⟨h, hm, e⟩ <;>
    simp only [e, bind, Except.bind]
  · simp; omega
  · simp only [Except.ok.injEq, Prod.mk.injEq, hm, Option.some.injEq]
    constructor
    · rintro ⟨rfl, rfl⟩; exact ⟨h, v, rfl, rfl, rfl⟩
    · rintro ⟨-, w, rfl, rfl, rfl⟩; exact ⟨rfl, rfl⟩
  · simp [hm]

/-- Everything a derandomizing read can do. -/
theorem readRaw_cases (s : State) :
    (available s < 8 ∧ readRaw s = .error (.raised .outOfData s)) ∨
    (8 ≤ available s ∧ ∃ w, w < 256 ∧ memRead s.cw s.pos 8 = some w ∧
      readRaw s = .ok (derandomize (BitVec.ofNat 8 w) s.p, { s with pos := s.pos + 8, p := s.p + 1 })) ∨
    (8 ≤ available s ∧ memRead s.cw s.pos 8 = none ∧ readRaw s = .error (.faulted .cwHole)) := by
  unfold readRaw
  rcases readBits_cases 8 s with ⟨h, e⟩ | ⟨h, v, hv, hm, e⟩ | ⟨h, hm, e⟩ <;>
    simp only [e, bind, Except.bind]
  · exact .inl ⟨h, trivial⟩
  · exact .inr (.inl ⟨h, v, hv, hm, rfl⟩)
  · exact .inr (.inr ⟨h, hm, trivial⟩)

/-! ## Procedures -/

@[simp] theorem settle_ok (s : State) : settle (.ok s) = .next s := rfl

@[simp] theorem settle_raise (c : Cause) (s : State) : settle (raise c s) = .next (s.abort c) := rfl

theorem raise_bind {α β : Type} (c : Cause) (s : State) (f : α → Except Stop β) :
    (raise c s >>= f) = raise c s := rfl

theorem ok_bind {α β : Type} (a : α) (f : α → Except Stop β) : ((Except.ok a : Except Stop α) >>= f) = f a := rfl

/-- A step of a busy machine is what the fetch finds. -/
theorem step_of_busy {s : State} (h : s.run = .busy) : step s = stepBusy s := by
  simp [step, h]

theorem step_of_not_busy {s : State} (h : s.run ≠ .busy) : step s = .next s := by
  unfold step
  cases hr : s.run <;> simp_all

theorem step_of_unit {s t : State} {i : Instr} (h : s.run = .busy) (hf : fetch s = .ok (.unit i t)) :
    step s = exec i t := by
  simp [step_of_busy h, stepBusy, hf, Fetched.run]

theorem step_of_quiet {s t : State} (h : s.run = .busy) (hf : fetch s = .ok (.quiet t)) : step s = .next t := by
  simp [step_of_busy h, stepBusy, hf, Fetched.run]

theorem step_of_stop {s : State} {st : Stop} (h : s.run = .busy) (hf : fetch s = .error st) :
    step s = st.outcome := by
  simp [step_of_busy h, stepBusy, hf]

theorem steps_succ_of_next {s t : State} {k : Nat} (h : step s = .next t) : steps (k + 1) s = steps k t := by
  simp [steps, h]

/-- `steps` is the run of the host's interface. -/
theorem steps_eq_run (k : Nat) (s : State) : steps k s = Sys2Proof.core.run k s := by
  induction k generalizing s with
  | zero => rfl
  | succ k ih =>
    have hr := Host.Core.run.eq_2 Sys2Proof.core s k
    have hc : Sys2Proof.core.step s = step s := rfl
    rw [hc] at hr
    rw [hr, steps]
    cases step s with
    | next t => exact ih t
    | fault r => rfl
    | refused r => rfl

end Sys2Proof.Machine
end

