-- ==== Sys2Proof/Laws/Fetch.lean ====
section
/-! SUPPORT. Everything each fetch can do, said once: it goes on quietly, delivers a unit on the state after its reads, raises
`OUT_OF_DATA`, or (outside filled buffers) meets a hole. -/

namespace Sys2Proof.Machine

theorem toNat_ofNat8 {v : Nat} (h : v < 256) : (BitVec.ofNat 8 v).toNat = v := by
  simp
  omega

/-- Everything a round of `AsciiSegment` can do. -/
theorem fetchAscii_cases (s : State) :
    (available s = 0 ∧ fetchAscii s = .ok (.quiet (s.returnTo .ascii))) ∨
    (0 < available s ∧ available s < 8 ∧ fetchAscii s = .error (.raised .outOfData s)) ∨
    (8 ≤ available s ∧ ∃ cw, cw < 256 ∧ memRead s.cw s.pos 8 = some cw ∧
      fetchAscii s = .ok (.unit (decodeAscii cw) { s with pos := s.pos + 8, b1 := BitVec.ofNat 8 cw })) ∨
    (8 ≤ available s ∧ memRead s.cw s.pos 8 = none ∧ fetchAscii s = .error (.faulted .cwHole)) := by
  unfold fetchAscii
  by_cases h0 : available s = 0
  · exact .inl ⟨h0, by simp [h0]⟩
  · refine .inr ?_
    simp only [h0, if_false]
    rcases readBits_cases 8 s with ⟨h, e⟩ | ⟨h, v, hv, hm, e⟩ | ⟨h, hm, e⟩ <;> simp only [e, bind, Except.bind]
    · exact .inl ⟨by omega, h, trivial⟩
    · exact .inr (.inl ⟨h, v, hv, hm, by simp [decoded, decode_ascii hv]⟩)
    · exact .inr (.inr ⟨h, hm, trivial⟩)

/-- Everything a round of `TripleSegment(m)` can do. -/
theorem fetchTriple_cases (m : TripleMode) (s : State) :
    ((available s = 0 ∨ available s = 8) ∧ fetchTriple m s = .ok (.quiet (s.returnTo .ascii))) ∨
    (0 < available s ∧ available s < 8 ∧ fetchTriple m s = .error (.raised .outOfData s)) ∨
    (8 < available s ∧ memRead s.cw s.pos 8 = some 254 ∧
      fetchTriple m s = .ok (.unit (unlatchUnit m) { s with pos := s.pos + 8, b1 := 254 })) ∨
    (8 < available s ∧ ∃ x1 : Byte, x1.toNat ≠ 254 ∧ memRead s.cw s.pos 8 = some x1.toNat ∧
      ((available s < 16 ∧ fetchTriple m s = .error (.raised .outOfData { s with pos := s.pos + 8, b1 := x1 })) ∨
       (16 ≤ available s ∧ ∃ x2 : Byte, memRead s.cw (s.pos + 8) 8 = some x2.toNat ∧
        fetchTriple m s = .ok (.unit (pairUnit m x1 x2) { s with pos := s.pos + 16, b1 := x1, b2 := x2 })) ∨
       (16 ≤ available s ∧ memRead s.cw (s.pos + 8) 8 = none ∧ fetchTriple m s = .error (.faulted .cwHole)))) ∨
    (8 < available s ∧ memRead s.cw s.pos 8 = none ∧ fetchTriple m s = .error (.faulted .cwHole)) := by
  unfold fetchTriple
  by_cases h0 : available s = 0
  · exact .inl ⟨.inl h0, by simp [h0]⟩
  by_cases h8 : available s = 8
  · exact .inl ⟨.inr h8, by simp [h8]⟩
  refine .inr ?_
  simp only [h0, h8, if_false]
  rcases readBits_cases 8 s with ⟨h, e⟩ | ⟨h, v, hv, hm, e⟩ | ⟨h, hm, e⟩ <;> simp only [e, bind, Except.bind]
  · exact .inl ⟨by omega, h, trivial⟩
  · refine .inr ?_
    by_cases hu : v = 254
    · subst hu
      exact .inl ⟨by omega, hm, by simp [decoded, decode_unlatch]⟩
    · refine .inr (.inl ⟨by omega, BitVec.ofNat 8 v, by rwa [toNat_ofNat8 hv], by rwa [toNat_ofNat8 hv], ?_⟩)
      simp only [hu, if_false]
      rcases readBits_cases 8 { s with pos := s.pos + 8, b1 := BitVec.ofNat 8 v } with
        ⟨h', e'⟩ | ⟨h', w, hw, hm', e'⟩ | ⟨h', hm', e'⟩ <;> simp only [e'] <;> simp only [available] at h h' h8 ⊢
      · exact .inl ⟨by omega, trivial⟩
      · refine .inr (.inl ⟨by omega, BitVec.ofNat 8 w, by rwa [toNat_ofNat8 hw], ?_⟩)
        have hd := decode_pair m (b1 := BitVec.ofNat 8 v) (b2 := BitVec.ofNat 8 w) (by rwa [toNat_ofNat8 hv])
        simp only [pairWord, toNat_ofNat8 hv, toNat_ofNat8 hw] at hd
        simp [decoded, hd]
      · exact .inr (.inr ⟨by omega, hm', trivial⟩)
  · exact .inr (.inr (.inr ⟨by omega, hm, trivial⟩))

/-- Everything a round of `SixbitSegment` can do. -/
theorem fetchSixbit_cases (k : Fin 4) (s : State) :
    ((k = 0 ∧ available s ≤ 16) ∧ fetchSixbit k s = .ok (.quiet (s.returnTo .ascii))) ∨
    (k ≠ 0 ∧ available s < 6 ∧ fetchSixbit k s = .error (.raised .outOfData s)) ∨
    ((k ≠ 0 ∨ 16 < available s) ∧ 6 ≤ available s ∧ ∃ e, e < 64 ∧ memRead s.cw s.pos 6 = some e ∧
      fetchSixbit k s = .ok (.unit (decodeSixbit e) { s with pos := s.pos + 6, e := BitVec.ofNat 6 e })) ∨
    ((k ≠ 0 ∨ 16 < available s) ∧ 6 ≤ available s ∧ memRead s.cw s.pos 6 = none ∧
      fetchSixbit k s = .error (.faulted .cwHole)) := by
  unfold fetchSixbit
  by_cases h0 : k = 0 ∧ available s ≤ 16
  · exact .inl ⟨h0, by simp [h0]⟩
  · refine .inr ?_
    have h1 : k ≠ 0 ∨ 16 < available s := by
      by_cases hk : k = 0
      · exact .inr (by by_contra hc; exact h0 ⟨hk, by omega⟩)
      · exact .inl hk
    simp only [h0, if_false]
    rcases readBits_cases 6 s with ⟨h, e⟩ | ⟨h, v, hv, hm, e⟩ | ⟨h, hm, e⟩ <;> simp only [e, bind, Except.bind]
    · exact .inl ⟨h1.resolve_right (by omega), h, trivial⟩
    · exact .inr (.inl ⟨h1, h, v, hv, hm, by simp [decoded, decode_sixbit hv]⟩)
    · exact .inr (.inr ⟨h1, h, hm, trivial⟩)

/-- Everything the header of `RawBytesSegment` can do. -/
theorem fetchHeader_cases (s : State) :
    (available s < 8 ∧ fetchHeader s = .error (.raised .outOfData s)) ∨
    (8 ≤ available s ∧ memRead s.cw s.pos 8 = none ∧ fetchHeader s = .error (.faulted .cwHole)) ∨
    (8 ≤ available s ∧ ∃ w, memRead s.cw s.pos 8 = some w ∧
      ∃ d1, d1 = derandomize (BitVec.ofNat 8 w) s.p ∧
      ((d1.toNat < 250 ∧
        fetchHeader s = .ok (.unit (decodeHeader d1.toNat) { s with pos := s.pos + 8, p := s.p + 1, d1 := d1 })) ∨
       (250 ≤ d1.toNat ∧ available s < 16 ∧
        fetchHeader s = .error (.raised .outOfData { s with pos := s.pos + 8, p := s.p + 1, d1 := d1 })) ∨
       (250 ≤ d1.toNat ∧ 16 ≤ available s ∧ memRead s.cw (s.pos + 8) 8 = none ∧
        fetchHeader s = .error (.faulted .cwHole)) ∨
       (250 ≤ d1.toNat ∧ 16 ≤ available s ∧ ∃ w2, memRead s.cw (s.pos + 8) 8 = some w2 ∧
        ∃ d2, d2 = derandomize (BitVec.ofNat 8 w2) (s.p + 1) ∧
        fetchHeader s =
          .ok (.unit (.bLen2 d1 d2) { s with pos := s.pos + 16, p := s.p + 2, d1 := d1, d2 := d2 })))) := by
  unfold fetchHeader
  rcases readRaw_cases s with ⟨h, e⟩ | ⟨h, w, -, hm, e⟩ | ⟨h, hm, e⟩ <;> simp only [e, bind, Except.bind]
  · exact .inl ⟨h, trivial⟩
  · refine .inr (.inr ⟨h, w, hm, _, rfl, ?_⟩)
    generalize derandomize (BitVec.ofNat 8 w) s.p = d1
    by_cases hd : d1.toNat < 250
    · exact .inl ⟨hd, by simp [hd, decoded, decode_header1 hd]⟩
    · refine .inr ?_
      simp only [hd, if_false]
      rcases readRaw_cases { s with pos := s.pos + 8, p := s.p + 1, d1 := d1 } with
        ⟨h', e'⟩ | ⟨h', w2, -, hm', e'⟩ | ⟨h', hm', e'⟩ <;> simp only [e'] <;> simp only [available] at h h' ⊢
      · exact .inl ⟨by omega, by omega, trivial⟩
      · exact .inr (.inr ⟨by omega, by omega, w2, hm', _, rfl, by simp [decoded, decode_header2 (d1 := d1) (by omega)]⟩)
      · exact .inr (.inl ⟨by omega, by omega, hm', trivial⟩)
  · exact .inr (.inl ⟨h, hm, trivial⟩)

/-- Everything a round of the counted run can do. -/
theorem fetchData_cases (s : State) :
    (s.cnt ≤ s.segbuf.length ∧ fetchData s = .ok (.quiet ((appendSegment s).returnTo .ascii))) ∨
    (s.segbuf.length < s.cnt ∧ available s < 8 ∧ fetchData s = .error (.raised .outOfData s)) ∨
    (s.segbuf.length < s.cnt ∧ 8 ≤ available s ∧ ∃ w, memRead s.cw s.pos 8 = some w ∧
      fetchData s =
        .ok (.unit (.bData (derandomize (BitVec.ofNat 8 w) s.p)) { s with pos := s.pos + 8, p := s.p + 1 })) ∨
    (s.segbuf.length < s.cnt ∧ 8 ≤ available s ∧ memRead s.cw s.pos 8 = none ∧
      fetchData s = .error (.faulted .cwHole)) := by
  unfold fetchData
  by_cases h0 : s.cnt ≤ s.segbuf.length
  · exact .inl ⟨h0, by simp [h0]⟩
  · refine .inr ?_
    simp only [h0, if_false]
    by_cases h8 : available s < 8
    · exact .inl ⟨by omega, h8, by simp [h8, raise]⟩
    · refine .inr ?_
      simp only [h8, if_false]
      rcases readRaw_cases s with ⟨h, e⟩ | ⟨h, w, -, hm, e⟩ | ⟨h, hm, e⟩ <;> simp only [e, bind, Except.bind]
      · omega
      · exact .inl ⟨by omega, h, w, hm, by simp [decoded, decode_data]⟩
      · exact .inr ⟨by omega, h, hm, trivial⟩

/-- Everything the loop test can do. -/
theorem fetchLoop_cases (s : State) :
    ((s.mode = .pad ∨ available s = 0) ∧ fetchLoop s = complete s) ∨
    (0 < available s ∧
      ((s.mode = .ascii ∧ fetchLoop s = enterAscii s) ∨
       (∃ m : TripleMode, s.mode = m.mode ∧ fetchLoop s = enterTriple m s) ∨
       (s.mode = .edf ∧ fetchLoop s = enterSixbit s) ∨
       (s.mode = .b256 ∧ fetchLoop s = enterRaw s))) := by
  unfold fetchLoop
  by_cases h0 : available s = 0
  · exact .inl ⟨.inr h0, by simp [h0]⟩
  · simp only [h0, if_false, or_false]
    have hp : 0 < available s := by omega
    cases hm : s.mode
    · exact .inr ⟨hp, .inl ⟨rfl, rfl⟩⟩
    · exact .inr ⟨hp, .inr (.inl ⟨.c40, rfl, rfl⟩)⟩
    · exact .inr ⟨hp, .inr (.inl ⟨.text, rfl, rfl⟩)⟩
    · exact .inr ⟨hp, .inr (.inl ⟨.x12, rfl, rfl⟩)⟩
    · exact .inr ⟨hp, .inr (.inr (.inl ⟨rfl, rfl⟩))⟩
    · exact .inr ⟨hp, .inr (.inr (.inr ⟨rfl, rfl⟩))⟩
    · exact .inl ⟨rfl, rfl⟩

/-! ## The fetch of each procedure -/

theorem fetch_loop {s : State} (h : s.phase = .loop) : fetch s = .ok (.quiet (fetchLoop s)) := by simp [fetch, h]

theorem fetch_ascii {s : State} (h : s.phase = .ascii) : fetch s = fetchAscii s := by simp [fetch, h]

theorem fetch_triple {s : State} {m : TripleMode} (h : s.phase = .triple m) : fetch s = fetchTriple m s := by
  simp [fetch, h]

theorem fetch_sixbit {s : State} {k : Fin 4} (h : s.phase = .sixbit k) : fetch s = fetchSixbit k s := by
  simp [fetch, h]

theorem fetch_rawHeader {s : State} (h : s.phase = .rawHeader) : fetch s = fetchHeader s := by simp [fetch, h]

theorem fetch_rawData {s : State} (h : s.phase = .rawData) : fetch s = fetchData s := by simp [fetch, h]

end Sys2Proof.Machine
end

