-- ==== Sys2Proof/Laws/Host.lean ====
section
/-! SUPPORT. What the host's two actions that change the state can do, said once, and which fields its three reads look at. -/

namespace Sys2Proof.Machine

/-- The empty buffer is accepted whatever N_MAX is. -/
theorem accepts_empty : Config.accepts ([] : List Byte).length = true := by
  unfold Config.accepts
  cases Config.nMax <;> simp

/-- When a supply answers a next state, and which. -/
theorem supply_next_iff {bs : List Byte} {s t : State} :
    supply bs s = .next t ↔ s.run ≠ .busy ∧ Config.accepts bs.length = true ∧ t = loadBuffer bs s := by
  by_cases h : s.run = .busy
  · simp [supply, h]
  · by_cases ha : Config.accepts bs.length = true <;> simp [supply, h, ha, @eq_comm _ t]

/-- When a launch answers a next state, and which. -/
theorem launch_next_iff {s t : State} :
    launch s = .next t ↔ s.run ≠ .busy ∧ s.supplied = true ∧ t = launched s := by
  by_cases h : s.run = .busy
  · simp [launch, h]
  · by_cases hs : s.supplied = true <;> simp [launch, h, hs, @eq_comm _ t]

/-- `status` looks at RUN and ERR only. -/
theorem status_congr {s t : State} (hr : t.run = s.run) (he : t.err = s.err) : status t = status s := by
  simp [status, hr, he]

/-- `read result` looks at RUN and the four outputs only. -/
theorem readResult_congr {s t : State} (hr : t.run = s.run) (ht : t.text = s.text) (hs : t.segs = s.segs)
    (hw : t.raw = s.raw) (ha : t.sa = s.sa) : readResult t = readResult s := by
  simp [readResult, resultOf, hr, ht, hs, hw, ha]

/-- `read CW` looks at RUN and CW only. -/
theorem readCw_congr {s t : State} (hr : t.run = s.run) (hc : t.cw = s.cw) : readCw t = readCw s := by
  simp [readCw, hr, hc]

/-- CW is readable once an invocation has ended. -/
theorem readCw_of_finished {s : State} (h : Finished s) : readCw s = some s.cw.bytes := by
  rcases h with h | h <;> simp [readCw, h]

end Sys2Proof.Machine
end

