-- ==== Sys2Proof/Laws/PerInstr.lean ====
section
/-! SUPPORT. Statements made for each unit: the value of a well-formed unit fits the width of its format (30_encoding.md R109). -/

namespace Sys2Proof.Laws.EncodeFits

/-- The value of the unit fits its format. -/
def Statement (i : Instr) : Prop := i.wf = true → encode i < 2 ^ i.format.width

theorem aInv0 : Statement (.aInv0) := fun _ => by decide

theorem aLit (ch : BitVec 7) : Statement (.aLit ch) := fun _ => by
  have := ch.isLt
  change ch.toNat + 1 < 256
  omega

theorem aPad : Statement (.aPad) := fun _ => by decide

theorem aDig2 (dd : BitVec 7) : Statement (.aDig2 dd) := fun hw => by
  simp only [Instr.wf, inRange, Bool.and_eq_true, decide_eq_true_eq] at hw
  change dd.toNat + 130 < 256
  omega

theorem aLc40 : Statement (.aLc40) := fun _ => by decide

theorem aLb256 : Statement (.aLb256) := fun _ => by decide

theorem aFnc1 : Statement (.aFnc1) := fun _ => by decide

theorem aSapp : Statement (.aSapp) := fun _ => by decide

theorem aRdrp : Statement (.aRdrp) := fun _ => by decide

theorem aUsh : Statement (.aUsh) := fun _ => by decide

theorem aM05 : Statement (.aM05) := fun _ => by decide

theorem aM06 : Statement (.aM06) := fun _ => by decide

theorem aLx12 : Statement (.aLx12) := fun _ => by decide

theorem aLtxt : Statement (.aLtxt) := fun _ => by decide

theorem aLedf : Statement (.aLedf) := fun _ => by decide

theorem aEci : Statement (.aEci) := fun _ => by decide

theorem aInv242 (cw : Byte) : Statement (.aInv242 cw) := fun _ => cw.isLt

theorem aEnd254 : Statement (.aEnd254) := fun _ => by decide

theorem aInv255 : Statement (.aInv255) := fun _ => by decide

theorem cUnl : Statement (.cUnl) := fun _ => by decide

theorem tUnl : Statement (.tUnl) := fun _ => by decide

theorem xUnl : Statement (.xUnl) := fun _ => by decide

theorem cPair (b1 b2 : Byte) : Statement (.cPair b1 b2) := fun _ => pairWord_lt b1 b2

theorem tPair (b1 b2 : Byte) : Statement (.tPair b1 b2) := fun _ => pairWord_lt b1 b2

theorem xPair (b1 b2 : Byte) : Statement (.xPair b1 b2) := fun _ => pairWord_lt b1 b2

theorem cSh (c : Val) : Statement (.cSh c) := fun _ => c.isLt

theorem cBas (c : Val) : Statement (.cBas c) := fun _ => c.isLt

theorem cBasx : Statement (.cBasx) := fun _ => by decide

theorem cS1 (c : Val) : Statement (.cS1 c) := fun _ => c.isLt

theorem cS2 (c : Val) : Statement (.cS2 c) := fun _ => c.isLt

theorem cS2f : Statement (.cS2f) := fun _ => by decide

theorem cS2u : Statement (.cS2u) := fun _ => by decide

theorem cS2x (c : Val) : Statement (.cS2x c) := fun _ => c.isLt

theorem cS3 (c : Val) : Statement (.cS3 c) := fun _ => c.isLt

theorem tSh (c : Val) : Statement (.tSh c) := fun _ => c.isLt

theorem tBas (c : Val) : Statement (.tBas c) := fun _ => c.isLt

theorem tBasx : Statement (.tBasx) := fun _ => by decide

theorem tS1 (c : Val) : Statement (.tS1 c) := fun _ => c.isLt

theorem tS2 (c : Val) : Statement (.tS2 c) := fun _ => c.isLt

theorem tS2f : Statement (.tS2f) := fun _ => by decide

theorem tS2u : Statement (.tS2u) := fun _ => by decide

theorem tS2x (c : Val) : Statement (.tS2x c) := fun _ => c.isLt

theorem tS3 (c : Val) : Statement (.tS3 c) := fun _ => c.isLt

theorem tS3x (c : Val) : Statement (.tS3x c) := fun _ => c.isLt

theorem xCr : Statement (.xCr) := fun _ => by decide

theorem xStar : Statement (.xStar) := fun _ => by decide

theorem xGt : Statement (.xGt) := fun _ => by decide

theorem xSp : Statement (.xSp) := fun _ => by decide

theorem xDig (c : Val) : Statement (.xDig c) := fun _ => c.isLt

theorem xLet (c : Val) : Statement (.xLet c) := fun _ => c.isLt

theorem xInv : Statement (.xInv) := fun _ => by decide

theorem eUnl : Statement (.eUnl) := fun _ => by decide

theorem eLo (e : Val) : Statement (.eLo e) := fun _ => e.isLt

theorem eHi (e : Val) : Statement (.eHi e) := fun _ => e.isLt

theorem bLen0 : Statement (.bLen0) := fun _ => by decide

theorem bLen1 (d1 : Byte) : Statement (.bLen1 d1) := fun _ => d1.isLt

theorem bLen2 (d1 d2 : Byte) : Statement (.bLen2 d1 d2) := fun _ => pairWord_lt d1 d2

theorem bData (b : Byte) : Statement (.bData b) := fun _ => b.isLt

end Sys2Proof.Laws.EncodeFits
end

