-- ==== Sys2Proof/Laws/Units.lean ====
section
/-! SUPPORT. Everything the units can do, said once: the effect of a value rule, of a pair, and of the units of each context. -/

namespace Sys2Proof.Machine

/-! ## Procedures that return or raise -/

/-- The procedure returns in a state with `P`, or raises in one, with another cause than `B256_LENGTH`. -/
def Yields (P : State → Prop) : Proc → Prop
  | .ok t => P t
  | .error (.raised c t) => P t ∧ c ≠ .b256Length
  | .error (.faulted _) => False
  | .error (.refused _) => False

theorem Yields.mono {P Q : State → Prop} {p : Proc} (h : Yields P p) (hpq : ∀ t, P t → Q t) : Yields Q p := by
  rcases p with (⟨c, t⟩ | f | r) | t
  · exact ⟨hpq t h.1, h.2⟩
  · exact h
  · exact h
  · exact hpq t h

theorem Yields.bind {P Q : State → Prop} {p : Proc} {f : State → Proc} (h : Yields P p) (hpq : ∀ t, P t → Q t)
    (hf : ∀ t, P t → Yields Q (f t)) : Yields Q (p >>= f) := by
  rcases p with (⟨c, t⟩ | f | r) | t
  · exact ⟨hpq t h.1, h.2⟩
  · exact h
  · exact h
  · exact hf t h

/-- A procedure that yields settles as a next state. -/
theorem Yields.settle {P : State → Prop} {p : Proc} (h : Yields P p) :
    (∃ t, P t ∧ settle p = .next t) ∨ (∃ t c, P t ∧ c ≠ .b256Length ∧ settle p = .next (t.abort c)) := by
  rcases p with (⟨c, t⟩ | f | r) | t
  · exact .inr ⟨t, c, h.1, h.2, rfl⟩
  · exact h.elim
  · exact h.elim
  · exact .inl ⟨t, h, rfl⟩

/-! ## Values -/

/-- From `s` to `t` at most `k` characters were emitted, none above 264, and only SHIFT and USH changed besides. -/
def Shows (k : Nat) (s t : State) : Prop :=
  ∃ (l : List Char16) (sh : Shift) (u : Bool),
    l.length ≤ k ∧ (∀ ch ∈ l, ch.toNat ≤ 264) ∧ t = { s with text := s.text ++ l, shift := sh, ush := u }

theorem shows_refl (k : Nat) (s : State) : Shows k s s := ⟨[], s.shift, s.ush, by simp, by simp, by simp⟩

theorem Shows.trans {j k : Nat} {s t u : State} (h1 : Shows j s t) (h2 : Shows k t u) : Shows (j + k) s u := by
  obtain ⟨l1, sh1, u1, n1, b1, rfl⟩ := h1
  obtain ⟨l2, sh2, u2, n2, b2, rfl⟩ := h2
  refine ⟨l1 ++ l2, sh2, u2, by simp; omega, ?_, by simp⟩
  intro ch hch
  rcases List.mem_append.mp hch with h | h
  · exact b1 ch h
  · exact b2 ch h

theorem Shows.le {j k : Nat} {s t : State} (h : Shows j s t) (hjk : j ≤ k) : Shows k s t := by
  obtain ⟨l, sh, u, n, b, e⟩ := h
  exact ⟨l, sh, u, by omega, b, e⟩

theorem char_toNat_le {x : Nat} (h : x ≤ 264) : (BitVec.ofNat 16 x).toNat ≤ 264 := by
  simp
  omega

theorem shows_emit {x : Nat} (s : State) (h : x ≤ 264) : Shows 1 s (emit x s) :=
  ⟨[BitVec.ofNat 16 x], s.shift, s.ush, by simp, by simpa using char_toNat_le h, rfl⟩

theorem shows_emitShifted {x : Nat} (s : State) (h : x ≤ 136) : Shows 1 s (emitShifted x s) := by
  unfold emitShifted
  split
  · exact ⟨[BitVec.ofNat 16 (x + 128)], s.shift, false, by simp, by simpa using char_toNat_le (by omega), rfl⟩
  · exact ⟨[BitVec.ofNat 16 x], s.shift, s.ush, by simp, by simpa using char_toNat_le (by omega), rfl⟩

theorem shows_setShift (c : Nat) (s : State) : Shows 1 s (setShift c s) :=
  ⟨[], pendingShift c, s.ush, by simp, by simp, by simp [setShift]⟩

theorem shows_clearShift {k : Nat} {s t : State} (h : Shows k s t) : Shows k s (clearShift t) := by
  obtain ⟨l, sh, u, n, b, rfl⟩ := h
  exact ⟨l, .s0, u, n, b, rfl⟩

theorem shows_setUpperShift (s : State) : Shows 1 s (setUpperShift s) :=
  ⟨[], s.shift, true, by simp, by simp, by simp [setUpperShift]⟩

theorem basicChar_le {letters c : Nat} (hl : letters ≤ 83) (hc : c ≤ 40) : basicChar letters c ≤ 136 := by
  unfold basicChar
  split
  · omega
  · split <;> omega

theorem yields_raise {P : State → Prop} {s : State} {c : Cause} (h : P s) (hc : c ≠ .b256Length) :
    Yields P (raise c s) := ⟨h, hc⟩

theorem emitResolved_shows {x : Nat} (s : State) (h : x ≤ 136) : Yields (Shows 1 s) (emitResolved x s) :=
  shows_clearShift (shows_emitShifted s h)

theorem emitFromTable_shows {table : List Nat} (ht : ∀ x ∈ table, x ≤ 136) {miss : Cause} (hm : miss ≠ .b256Length)
    (c : Nat) (s : State) : Yields (Shows 1 s) (emitFromTable table miss c s) := by
  unfold emitFromTable tableChar
  split
  · rename_i ch hch
    exact emitResolved_shows s (ht ch (List.mem_of_getElem? hch))
  · exact ⟨shows_refl 1 s, hm⟩

theorem shift2Table_le : ∀ x ∈ shift2Table, x ≤ 136 := by decide

theorem textShift3Table_le : ∀ x ∈ textShift3Table, x ≤ 136 := by decide

/-- What a value of a C40 pair can do. -/
theorem interpC40_shows {c : Val} (hc : c.toNat ≤ 40) (s : State) : Yields (Shows 1 s) (interpC40 c s) := by
  unfold interpC40
  split
  · split
    · exact shows_setShift _ _
    · split
      · exact shows_emitShifted s (basicChar_le (by decide) hc)
      · exact yields_raise (shows_refl 1 s) (by decide)
  · exact emitResolved_shows s (by omega)
  · split
    · exact emitFromTable_shows shift2Table_le (by decide) _ s
    · split
      · exact shows_clearShift (shows_emit s (by decide))
      · split
        · exact shows_clearShift (shows_setUpperShift s)
        · exact yields_raise (shows_refl 1 s) (by decide)
  · exact emitResolved_shows s (by omega)

/-- What a value of a TEXT pair can do. -/
theorem interpText_shows {c : Val} (hc : c.toNat ≤ 40) (s : State) : Yields (Shows 1 s) (interpText c s) := by
  unfold interpText
  split
  · split
    · exact shows_setShift _ _
    · split
      · exact shows_emitShifted s (basicChar_le (by decide) hc)
      · exact yields_raise (shows_refl 1 s) (by decide)
  · exact emitResolved_shows s (by omega)
  · split
    · exact emitFromTable_shows shift2Table_le (by decide) _ s
    · split
      · exact shows_clearShift (shows_emit s (by decide))
      · split
        · exact shows_clearShift (shows_setUpperShift s)
        · exact yields_raise (shows_refl 1 s) (by decide)
  · split
    · exact emitFromTable_shows textShift3Table_le (by decide) _ s
    · exact yields_raise (shows_refl 1 s) (by decide)

/-- What a value of an X12 pair can do. -/
theorem interpX12_shows {c : Val} (hc : c.toNat ≤ 40) (s : State) : Yields (Shows 1 s) (interpX12 c s) := by
  unfold interpX12
  split
  · exact shows_emit s (by decide)
  split
  · exact shows_emit s (by decide)
  split
  · exact shows_emit s (by decide)
  split
  · exact shows_emit s (by decide)
  split
  · exact shows_emit s (by omega)
  split
  · exact shows_emit s (by unfold upperLetters; omega)
  · exact yields_raise (shows_refl 1 s) (by decide)

/-! ## Pairs -/

/-- The values of an unpacked triple: the first at most 40, the others at most 39 (43_base40.md R201). -/
theorem unpack3_le {b1 b2 : Byte} {t : Triple} (h : unpack3 b1 b2 = some t) :
    t.c1.toNat ≤ 40 ∧ t.c2.toNat ≤ 39 ∧ t.c3.toNat ≤ 39 := by
  unfold unpack3 at h
  split at h
  · simp at h
  · have hw := pairWord_lt b1 b2
    simp only [Option.some.injEq] at h
    subst h
    simp only [tripleOf, BitVec.toNat_ofNat]
    omega

/-- From `s` to `t` at most three characters were emitted, none above 264, and only V, C, SHIFT and USH changed besides. -/
def PairShows (s t : State) : Prop :=
  ∃ (v : BitVec 16) (c : Triple), Shows 3 { s with v := v, c := c } t

theorem loadTriple_cases (b1 b2 : Byte) (s : State) :
    (unpack3 b1 b2 = none ∧ loadTriple b1 b2 s = raise .tripleZero s) ∨
    ∃ t, unpack3 b1 b2 = some t ∧
      loadTriple b1 b2 s = .ok { s with v := BitVec.ofNat 16 (pairWord b1 b2 - 1), c := t } := by
  unfold loadTriple
  cases h : unpack3 b1 b2 with
  | none => exact .inl ⟨rfl, rfl⟩
  | some t => exact .inr ⟨t, rfl, rfl⟩

/-- The triple stands in C[] while its values run. -/
theorem Shows.c_eq {k : Nat} {s t : State} (h : Shows k s t) : t.c = s.c := by
  obtain ⟨l, sh, u, -, -, rfl⟩ := h
  rfl

/-- What a pair can do, for any interpretation of its values that shows at most one character. -/
theorem runPair_shows {interp : Val → State → Proc}
    (hi : ∀ (c : Val) (s : State), c.toNat ≤ 40 → Yields (Shows 1 s) (interp c s)) (b1 b2 : Byte) (s : State) :
    Yields (PairShows s) (runPair interp b1 b2 s) := by
  unfold runPair
  rcases loadTriple_cases b1 b2 s with ⟨-, e⟩ | ⟨t, ht, e⟩
  · rw [e]
    exact ⟨⟨s.v, s.c, shows_refl 3 s⟩, by decide⟩
  · obtain ⟨h1, h2, h3⟩ := unpack3_le ht
    rw [e]
    simp only [ok_bind]
    generalize hs0 : ({ s with v := BitVec.ofNat 16 (pairWord b1 b2 - 1), c := t } : State) = s0
    have hc0 : s0.c = t := by rw [← hs0]
    have toPair : ∀ u, Shows 3 s0 u → PairShows s u := fun u hu => ⟨_, t, hs0 ▸ hu⟩
    refine Yields.mono ?_ toPair
    refine Yields.bind (hi _ s0 (h1)) (fun u hu => hu.le (by omega)) fun s1 hs1 => ?_
    have hc1 := hs1.c_eq
    refine Yields.bind (P := Shows 2 s0) ?_ (fun u hu => hu.le (by omega)) fun s2 hs2 => ?_
    · exact (hi _ s1 (by rw [hc1, hc0]; omega)).mono fun u hu => hs1.trans hu
    · exact (hi _ s2 (by rw [hs2.c_eq, hc0]; omega)).mono fun u hu => hs2.trans hu

/-- Everything a pair can do. -/
theorem exec_pairUnit_cases (m : TripleMode) (b1 b2 : Byte) (s : State) :
    (∃ t, PairShows s t ∧ exec (pairUnit m b1 b2) s = .next t) ∨
    (∃ t c, PairShows s t ∧ c ≠ .b256Length ∧ exec (pairUnit m b1 b2) s = .next (t.abort c)) := by
  cases m
  · exact (runPair_shows (fun _ s hc => interpC40_shows hc s) b1 b2 s).settle
  · exact (runPair_shows (fun _ s hc => interpText_shows hc s) b1 b2 s).settle
  · exact (runPair_shows (fun _ s hc => interpX12_shows hc s) b1 b2 s).settle

@[simp] theorem exec_unlatchUnit (m : TripleMode) (s : State) :
    exec (unlatchUnit m) s = .next (s.returnTo .ascii) := by
  cases m <;> rfl

/-! ## ASCII -/

/-- Everything an ASCII unit can do: it emits at most two characters and perhaps writes USH; it emits a macro's header and puts a trailer to the
front; it returns a mode; or it raises. -/
theorem exec_ascii_cases (i : Instr) (hi : i.ctx = .ascii) (s : State) :
    (∃ (l : List Char16) (u : Bool), l.length ≤ 2 ∧ (∀ ch ∈ l, ch.toNat ≤ 264) ∧
      exec i s = .next { s with text := s.text ++ l, ush := u }) ∨
    (∃ h, (h = macro05Header ∨ h = macro06Header) ∧ exec i s = .next (prependTrailer macroTrailer (emitAll h s))) ∨
    (∃ m, exec i s = .next (s.returnTo m)) ∨
    (∃ c, c ≠ .b256Length ∧ exec i s = .next (s.abort c)) := by
  cases i <;> try (exfalso; revert hi; simp [Instr.ctx]; done)
  case aInv0 => exact .inr (.inr (.inr ⟨.asciiZero, by decide, rfl⟩))
  case aLit ch =>
    have := ch.isLt
    refine .inl ⟨[BitVec.ofNat 16 (if s.ush then ch.toNat + 128 else ch.toNat)], false, by simp, ?_, ?_⟩
    · simp only [List.mem_singleton, forall_eq]
      exact char_toNat_le (by split <;> omega)
    · change Host.Outcome.next (emitShifted ch.toNat s) = _
      unfold emitShifted
      cases hu : s.ush <;> simp [emit, hu]
  case aPad => exact .inr (.inr (.inl ⟨.pad, rfl⟩))
  case aDig2 dd =>
    have := dd.isLt
    refine .inl ⟨(digitChars dd.toNat).map (BitVec.ofNat 16), s.ush, by simp [digitChars], ?_, rfl⟩
    simp only [digitChars, List.map_cons, List.map_nil, List.mem_cons, List.not_mem_nil, or_false]
    rintro ch (rfl | rfl) <;> exact char_toNat_le (by omega)
  case aLc40 => exact .inr (.inr (.inl ⟨.c40, rfl⟩))
  case aLb256 => exact .inr (.inr (.inl ⟨.b256, rfl⟩))
  case aFnc1 => exact .inl ⟨[BitVec.ofNat 16 fnc1Char], s.ush, by simp, by simpa using char_toNat_le (by decide), rfl⟩
  case aSapp => exact .inl ⟨[], s.ush, by simp, by simp, by simp [exec, execASapp]⟩
  case aRdrp => exact .inl ⟨[], s.ush, by simp, by simp, by simp [exec, execARdrp]⟩
  case aUsh => exact .inl ⟨[], true, by simp, by simp, by simp [exec, execAUsh, setUpperShift]⟩
  case aM05 => exact .inr (.inl ⟨_, .inl rfl, rfl⟩)
  case aM06 => exact .inr (.inl ⟨_, .inr rfl, rfl⟩)
  case aLx12 => exact .inr (.inr (.inl ⟨.x12, rfl⟩))
  case aLtxt => exact .inr (.inr (.inl ⟨.text, rfl⟩))
  case aLedf => exact .inr (.inr (.inl ⟨.edf, rfl⟩))
  case aEci => exact .inl ⟨[], s.ush, by simp, by simp, by simp [exec, execAEci]⟩
  case aInv242 => exact .inr (.inr (.inr ⟨.asciiReserved, by decide, rfl⟩))
  case aEnd254 =>
    by_cases h : available s = 0
    · exact .inl ⟨[], s.ush, by simp, by simp, by simp [exec, execAEnd254, h]⟩
    · exact .inr (.inr (.inr ⟨.ascii254, by decide, by simp [exec, execAEnd254, h]⟩))
  case aInv255 => exact .inr (.inr (.inr ⟨.ascii255, by decide, rfl⟩))

theorem decodeAscii_ctx (cw : Nat) : (decodeAscii cw).ctx = .ascii := by
  simp only [decodeAscii, apply_ite Instr.ctx]
  simp only [Instr.ctx, ite_self]

/-! ## Sixbit -/

/-- Everything a Sixbit unit can do, with SIXBIT_REALIGN = 0. -/
theorem exec_sixbit_cases (e : Nat) (he : e < 64) (s : State) :
    (e = 31 ∧ exec (decodeSixbit e) s = .next (s.returnTo .ascii)) ∨
    (e ≠ 31 ∧ ∃ x, x ≤ 264 ∧ exec (decodeSixbit e) s = .next (nextPlace (emit x s))) := by
  unfold decodeSixbit
  by_cases h : e = 31
  · subst h
    exact .inl ⟨rfl, rfl⟩
  · refine .inr ⟨h, ?_⟩
    rw [if_neg (by simpa [sixbitUnlatchValue] using h)]
    split
    · exact ⟨_, by simp [sixbitHigh]; omega, rfl⟩
    · refine ⟨_, ?_, rfl⟩
      have : sixbitLow (BitVec.ofNat 6 e) < 2 ^ 8 := Nat.or_lt_two_pow (by simp; omega) (by decide)
      omega

/-! ## RawBytes -/

theorem startRun_nonneg {len : Int} (h : 0 ≤ len) (s : State) :
    startRun len s = .ok { s with cnt := len.toNat, segbuf := [], phase := .rawData } := by
  unfold startRun
  rw [if_neg (by omega)]

theorem longLength_nonneg {d1 : Byte} (d2 : Byte) (h : 250 ≤ d1.toNat) : 0 ≤ longLength d1 d2 := by
  unfold longLength
  omega

/-- Everything a one-byte header can do. -/
theorem exec_header_cases (d1 : Nat) (s : State) :
    ∃ n, exec (decodeHeader d1) s = .next { s with cnt := n, segbuf := [], phase := .rawData } := by
  unfold decodeHeader
  split
  · exact ⟨_, congrArg settle (startRun_nonneg (Int.natCast_nonneg _) s)⟩
  · exact ⟨_, congrArg settle (startRun_nonneg (Int.natCast_nonneg _) s)⟩

/-- What a two-byte header does. -/
theorem exec_bLen2 {d1 : Byte} (d2 : Byte) (h : 250 ≤ d1.toNat) (s : State) :
    exec (.bLen2 d1 d2) s =
      .next { s with cnt := (longLength d1 d2).toNat, segbuf := [], phase := .rawData } := by
  simp [exec, execBLen2, startRun_nonneg (longLength_nonneg d2 h)]

@[simp] theorem exec_bData (b : Byte) (s : State) :
    exec (.bData b) s = .next { s with segbuf := s.segbuf ++ [b] } := rfl

end Sys2Proof.Machine
end

