-- ==== Sys2Proof/Laws/Step.lean ====
section
/-! SUPPORT. Everything a step of a busy machine can do, said once; every claim about all steps goes through it. -/

namespace Sys2Proof.Machine

/-- What a step of a busy machine in state `s` can answer, and when. -/
inductive Stepped (s : State) : Host.Outcome State Fault Refusal → Prop where
  /-- The dispatch loop ends. -/
  | loopEnd (hp : s.phase = .loop) (h : s.mode = .pad ∨ available s = 0) : Stepped s (.next (complete s))
  /-- A decoder is entered. -/
  | intoAscii (hp : s.phase = .loop) (h : 0 < available s) (hm : s.mode = .ascii) : Stepped s (.next (enterAscii s))
  | intoTriple (m : TripleMode) (hp : s.phase = .loop) (h : 0 < available s) (hm : s.mode = m.mode) :
    Stepped s (.next (enterTriple m s))
  | intoSixbit (hp : s.phase = .loop) (h : 0 < available s) (hm : s.mode = .edf) : Stepped s (.next (enterSixbit s))
  | intoRaw (hp : s.phase = .loop) (h : 0 < available s) (hm : s.mode = .b256) : Stepped s (.next (enterRaw s))
  /-- A decoder returns for want of bits. -/
  | leaveAscii (hp : s.phase = .ascii) (h : available s = 0) : Stepped s (.next (s.returnTo .ascii))
  | leaveTriple (m : TripleMode) (hp : s.phase = .triple m) (h : available s = 0 ∨ available s = 8) :
    Stepped s (.next (s.returnTo .ascii))
  | leaveSixbit (hp : s.phase = .sixbit 0) (h : available s ≤ 16) : Stepped s (.next (s.returnTo .ascii))
  /-- A segment is appended. -/
  | segment (hp : s.phase = .rawData) (h : s.cnt ≤ s.segbuf.length) :
    Stepped s (.next ((appendSegment s).returnTo .ascii))
  /-- A read finds too few bits; `r` is the state after the reads of the unit before it, of which there is at most one. -/
  | short (r : State) (hp : s.phase ≠ .loop) (hr : r = s ∨
      (8 ≤ available s ∧ ∃ (p : Nat) (x y : Byte), r = { s with pos := s.pos + 8, p := p, b1 := x, d1 := y } ∧
        ((∃ m, s.phase = .triple m) ∧ p = s.p ∨ s.phase = .rawHeader ∧ p = s.p + 1))) :
    Stepped s (.next (r.abort .outOfData))
  /-- A read meets a hole in the buffer. -/
  | hole (a n : Nat) (hn : a + n ≤ 8 * s.n) (h : memRead s.cw a n = none) : Stepped s (.fault .cwHole)
  /-- An ASCII codeword. -/
  | asciiEmit (x : Byte) (l : List Char16) (u : Bool) (hp : s.phase = .ascii) (h : 8 ≤ available s) (hl : l.length ≤ 2)
    (hb : ∀ ch ∈ l, ch.toNat ≤ 264) :
    Stepped s (.next { s with pos := s.pos + 8, b1 := x, text := s.text ++ l, ush := u })
  | asciiMacro (x : Byte) (hd : List Nat) (hp : s.phase = .ascii) (h : 8 ≤ available s)
    (hh : hd = macro05Header ∨ hd = macro06Header) :
    Stepped s (.next (prependTrailer macroTrailer (emitAll hd { s with pos := s.pos + 8, b1 := x })))
  | asciiReturn (x : Byte) (m : Mode) (hp : s.phase = .ascii) (h : 8 ≤ available s) :
    Stepped s (.next ({ s with pos := s.pos + 8, b1 := x }.returnTo m))
  | asciiRaise (x : Byte) (c : Cause) (hp : s.phase = .ascii) (h : 8 ≤ available s) (hc : c ≠ .b256Length) :
    Stepped s (.next ({ s with pos := s.pos + 8, b1 := x }.abort c))
  /-- A triple mode's unlatch byte. -/
  | unlatch (m : TripleMode) (x : Byte) (hp : s.phase = .triple m) (h : 8 < available s) :
    Stepped s (.next ({ s with pos := s.pos + 8, b1 := x }.returnTo .ascii))
  /-- A pair. -/
  | pair (m : TripleMode) (x1 x2 : Byte) (t : State) (hp : s.phase = .triple m) (h : 16 ≤ available s)
    (ht : PairShows { s with pos := s.pos + 16, b1 := x1, b2 := x2 } t) : Stepped s (.next t)
  | pairRaise (m : TripleMode) (x1 x2 : Byte) (t : State) (c : Cause) (hp : s.phase = .triple m) (h : 16 ≤ available s)
    (ht : PairShows { s with pos := s.pos + 16, b1 := x1, b2 := x2 } t) (hc : c ≠ .b256Length) :
    Stepped s (.next (t.abort c))
  /-- A Sixbit value. -/
  | sixbitEnd (k : Fin 4) (x : Val) (hp : s.phase = .sixbit k) (h : 6 ≤ available s) :
    Stepped s (.next ({ s with pos := s.pos + 6, e := x }.returnTo .ascii))
  | sixbitEmit (k : Fin 4) (x : Val) (ch : Nat) (hp : s.phase = .sixbit k) (h : 6 ≤ available s) (hb : ch ≤ 264) :
    Stepped s (.next { s with pos := s.pos + 6, e := x, text := s.text ++ [BitVec.ofNat 16 ch], phase := .sixbit (k + 1) })
  /-- A RawBytes header. -/
  | header1 (x : Byte) (n : Nat) (hp : s.phase = .rawHeader) (h : 8 ≤ available s) :
    Stepped s (.next { s with pos := s.pos + 8, p := s.p + 1, d1 := x, cnt := n, segbuf := [], phase := .rawData })
  | header2 (x y : Byte) (n : Nat) (hp : s.phase = .rawHeader) (h : 16 ≤ available s) :
    Stepped s
      (.next { s with pos := s.pos + 16, p := s.p + 2, d1 := x, d2 := y, cnt := n, segbuf := [], phase := .rawData })
  /-- A RawBytes data byte. -/
  | data (x : Byte) (hp : s.phase = .rawData) (h : 8 ≤ available s) (hc : s.segbuf.length < s.cnt) :
    Stepped s (.next { s with pos := s.pos + 8, p := s.p + 1, segbuf := s.segbuf ++ [x] })

theorem le_of_available {s : State} {n : Nat} (hn : 0 < n) (h : n ≤ available s) : s.pos + n ≤ 8 * s.n := by
  unfold available at h
  omega

/-- Everything a step of a busy machine can do. -/
theorem stepped {s : State} (h : s.run = .busy) : Stepped s (step s) := by
  cases hp : s.phase with
  | loop =>
    rw [step_of_quiet h (fetch_loop hp)]
    rcases fetchLoop_cases s with ⟨hc, e⟩ | ⟨ha, ⟨hm, e⟩ | ⟨m, hm, e⟩ | ⟨hm, e⟩ | ⟨hm, e⟩⟩ <;> rw [e]
    · exact .loopEnd hp hc
    · exact .intoAscii hp ha hm
    · exact .intoTriple m hp ha hm
    · exact .intoSixbit hp ha hm
    · exact .intoRaw hp ha hm
  | ascii =>
    have hf := fetch_ascii hp
    rcases fetchAscii_cases s with ⟨h0, e⟩ | ⟨h0, h8, e⟩ | ⟨h8, cw, hcw, -, e⟩ | ⟨h8, hm, e⟩ <;> rw [e] at hf
    · rw [step_of_quiet h hf]
      exact .leaveAscii hp h0
    · rw [step_of_stop h hf]
      exact .short s (by simp [hp]) (.inl rfl)
    · rw [step_of_unit h hf]
      rcases exec_ascii_cases (decodeAscii cw) (decodeAscii_ctx cw) _ with
        ⟨l, u, hl, hb, e⟩ | ⟨hd, hh, e⟩ | ⟨m, e⟩ | ⟨c, hc, e⟩ <;> rw [e]
      · exact .asciiEmit _ l u hp h8 hl hb
      · exact .asciiMacro _ hd hp h8 hh
      · exact .asciiReturn _ m hp h8
      · exact .asciiRaise _ c hp h8 hc
    · rw [step_of_stop h hf]
      exact .hole s.pos 8 (le_of_available (by decide) h8) hm
  | triple m =>
    have hf := fetch_triple hp
    rcases fetchTriple_cases m s with ⟨h0, e⟩ | ⟨h0, h8, e⟩ | ⟨h8, -, e⟩ |
      ⟨h8, x1, hx, -, ⟨h16, e⟩ | ⟨h16, x2, -, e⟩ | ⟨h16, hm, e⟩⟩ | ⟨h8, hm, e⟩ <;> rw [e] at hf
    · rw [step_of_quiet h hf]
      exact .leaveTriple m hp h0
    · rw [step_of_stop h hf]
      exact .short s (by simp [hp]) (.inl rfl)
    · rw [step_of_unit h hf, exec_unlatchUnit]
      exact .unlatch m _ hp h8
    · rw [step_of_stop h hf]
      exact .short _ (by simp [hp]) (.inr ⟨by omega, s.p, x1, s.d1, rfl, .inl ⟨⟨m, hp⟩, rfl⟩⟩)
    · rw [step_of_unit h hf]
      rcases exec_pairUnit_cases m x1 x2 { s with pos := s.pos + 16, b1 := x1, b2 := x2 } with
        ⟨t, ht, e⟩ | ⟨t, c, ht, hc, e⟩ <;> rw [e]
      · exact .pair m x1 x2 t hp h16 ht
      · exact .pairRaise m x1 x2 t c hp h16 ht hc
    · rw [step_of_stop h hf]
      exact .hole (s.pos + 8) 8 (by have := le_of_available (by decide) h16; omega) hm
    · rw [step_of_stop h hf]
      exact .hole s.pos 8 (le_of_available (by decide) (by omega)) hm
  | sixbit k =>
    have hf := fetch_sixbit hp
    rcases fetchSixbit_cases k s with ⟨h0, e⟩ | ⟨h0, h6, e⟩ | ⟨h0, h6, v, hv, -, e⟩ | ⟨h0, h6, hm, e⟩ <;> rw [e] at hf
    · rw [step_of_quiet h hf]
      exact .leaveSixbit (by rw [hp, h0.1]) h0.2
    · rw [step_of_stop h hf]
      exact .short s (by simp [hp]) (.inl rfl)
    · rw [step_of_unit h hf]
      rcases exec_sixbit_cases v hv { s with pos := s.pos + 6, e := BitVec.ofNat 6 v } with
        ⟨-, e⟩ | ⟨-, x, hx, e⟩ <;> rw [e]
      · exact .sixbitEnd k _ hp h6
      · have e : nextPlace (emit x { s with pos := s.pos + 6, e := BitVec.ofNat 6 v }) =
            { s with
              pos := s.pos + 6, e := BitVec.ofNat 6 v, text := s.text ++ [BitVec.ofNat 16 x], phase := .sixbit (k + 1) } := by
          simp [nextPlace, emit, hp]
        rw [e]
        exact .sixbitEmit k _ x hp h6 hx
    · rw [step_of_stop h hf]
      exact .hole s.pos 6 (le_of_available (by decide) h6) hm
  | rawHeader =>
    have hf := fetch_rawHeader hp
    rcases fetchHeader_cases s with ⟨h8, e⟩ | ⟨h8, hm, e⟩ |
      ⟨h8, w, -, d1, -, ⟨hd, e⟩ | ⟨hd, h16, e⟩ | ⟨hd, h16, hm, e⟩ | ⟨hd, h16, w2, -, d2, -, e⟩⟩ <;> rw [e] at hf
    · rw [step_of_stop h hf]
      exact .short s (by simp [hp]) (.inl rfl)
    · rw [step_of_stop h hf]
      exact .hole s.pos 8 (le_of_available (by decide) h8) hm
    · rw [step_of_unit h hf]
      obtain ⟨n, e⟩ := exec_header_cases d1.toNat { s with pos := s.pos + 8, p := s.p + 1, d1 := d1 }
      rw [e]
      exact .header1 d1 n hp h8
    · rw [step_of_stop h hf]
      exact .short _ (by simp [hp]) (.inr ⟨h8, s.p + 1, s.b1, d1, rfl, .inr ⟨hp, rfl⟩⟩)
    · rw [step_of_stop h hf]
      exact .hole (s.pos + 8) 8 (by have := le_of_available (by decide) h16; omega) hm
    · rw [step_of_unit h hf, exec_bLen2 d2 hd]
      exact .header2 d1 d2 _ hp h16
  | rawData =>
    have hf := fetch_rawData hp
    rcases fetchData_cases s with ⟨h0, e⟩ | ⟨h0, h8, e⟩ | ⟨h0, h8, w, -, e⟩ | ⟨h0, h8, hm, e⟩ <;> rw [e] at hf
    · rw [step_of_quiet h hf]
      exact .segment hp h0
    · rw [step_of_stop h hf]
      exact .short s (by simp [hp]) (.inl rfl)
    · rw [step_of_unit h hf, exec_bData]
      exact .data _ hp h8 h0
    · rw [step_of_stop h hf]
      exact .hole s.pos 8 (le_of_available (by decide) h8) hm

/-- The two kinds of step that have a next state: a machine that is not busy stays, a busy one does one of the things of `Stepped`. -/
theorem step_next_cases {s t : State} (h : step s = .next t) :
    (s.run ≠ .busy ∧ t = s) ∨ (s.run = .busy ∧ Stepped s (.next t)) := by
  by_cases hb : s.run = .busy
  · exact .inr ⟨hb, h ▸ stepped hb⟩
  · rw [step_of_not_busy hb] at h
    exact .inl ⟨hb, (Host.Outcome.next.inj h).symm⟩

end Sys2Proof.Machine
end

