-- ==== Sys2Proof/Tests/Slice0.lean ====
section
/-! SUPPORT. Tests: the checks of WellFormed, every constructor's decoding from a word written out from the spec's encoding, one step or one
meaning per unit (expected results from 95_test_vectors.md and the rules' own examples), and a witness for the hypotheses
of every statement that has some. -/

namespace Sys2Proof.Tests

open Sys2Proof Sys2Proof.Machine

/-- Bytes from numbers. -/
def bytes (l : List Nat) : List Byte := l.map (BitVec.ofNat 8)

/-- A busy machine over the bytes `l` inside the procedure `ph`. -/
def busyOn (l : List Nat) (m : Mode) (ph : Phase) : State :=
  { State.reset with
    cw := Memory.ofBytes (bytes l), n := l.length, supplied := true, run := .busy, mode := m, phase := ph }

/-- A busy machine inside a C40 segment with shift state `sh`. -/
def shifted (sh : Shift) : State := { busyOn [] .c40 (.triple .c40) with shift := sh }

/-- A view of the next state, if there is one. -/
def got {α : Type} (o : Host.Outcome State Fault Refusal) (f : State → α) : Option α :=
  match o with
  | .next t => some (f t)
  | .fault _ => none
  | .refused _ => none

/-- TEXT as numbers. -/
def chars (s : State) : List Nat := s.text.map BitVec.toNat

/-- SEGBUF as numbers. -/
def held (s : State) : List Nat := s.segbuf.map BitVec.toNat

/-- TEXT and the two flags. -/
def shownBy (s : State) : List Nat × Shift × Bool := (chars s, s.shift, s.ush)

/-- RUN and the number of the cause. -/
def trap (s : State) : RunStatus × Nat := (s.run, s.err.causeCode.toNat)

/-! ## WellFormed: each check refuses an ill-formed term -/

theorem test_wf_digits : (Instr.aDig2 100).wf = false ∧ (Instr.aDig2 127).wf = false ∧ (Instr.aDig2 99).wf = true := by decide

theorem test_wf_reserved :
    (Instr.aInv242 241).wf = false ∧ (Instr.aInv242 254).wf = false ∧ (Instr.aInv242 253).wf = true := by decide

theorem test_wf_pairs :
    (Instr.cPair 254 0).wf = false ∧ (Instr.tPair 254 7).wf = false ∧ (Instr.xPair 254 255).wf = false ∧
    (Instr.cPair 253 254).wf = true := by decide

theorem test_wf_c40_values :
    (Instr.cSh 3).wf = false ∧ (Instr.cBas 2).wf = false ∧ (Instr.cBas 40).wf = false ∧ (Instr.cS1 41).wf = false ∧
    (Instr.cS2 27).wf = false ∧ (Instr.cS2x 27).wf = false ∧ (Instr.cS2x 30).wf = false ∧ (Instr.cS2x 41).wf = false ∧
    (Instr.cS3 41).wf = false := by decide

theorem test_wf_text_values :
    (Instr.tSh 3).wf = false ∧ (Instr.tBas 2).wf = false ∧ (Instr.tBas 40).wf = false ∧ (Instr.tS1 41).wf = false ∧
    (Instr.tS2 27).wf = false ∧ (Instr.tS2x 26).wf = false ∧ (Instr.tS2x 30).wf = false ∧ (Instr.tS3 32).wf = false ∧
    (Instr.tS3x 31).wf = false ∧ (Instr.tS3x 41).wf = false := by decide

theorem test_wf_x12_values :
    (Instr.xDig 3).wf = false ∧ (Instr.xDig 14).wf = false ∧ (Instr.xLet 13).wf = false ∧ (Instr.xLet 40).wf = false := by
  decide

theorem test_wf_sixbit_values : (Instr.eLo 31).wf = false ∧ (Instr.eHi 31).wf = false ∧ (Instr.eHi 63).wf = true := by decide

theorem test_wf_headers :
    (Instr.bLen1 0).wf = false ∧ (Instr.bLen1 250).wf = false ∧ (Instr.bLen2 249 0).wf = false ∧
    (Instr.bLen2 250 0).wf = true := by decide

/-! ## Decoding: every constructor from a word written out (30_encoding.md R96 to R104) -/

theorem test_decode_ascii_characters :
    decode .ascii 0b00000000 = .ok .aInv0 ∧ decode .ascii 0b00000001 = .ok (.aLit 0) ∧
    decode .ascii 0b01000010 = .ok (.aLit 65) ∧ decode .ascii 0b10000000 = .ok (.aLit 127) ∧
    decode .ascii 0b10000010 = .ok (.aDig2 0) ∧ decode .ascii 0b11100101 = .ok (.aDig2 99) := by decide

theorem test_decode_ascii_controls :
    decode .ascii 0b10000001 = .ok .aPad ∧ decode .ascii 0b11100110 = .ok .aLc40 ∧ decode .ascii 0b11100111 = .ok .aLb256 ∧
    decode .ascii 0b11101000 = .ok .aFnc1 ∧ decode .ascii 0b11101001 = .ok .aSapp ∧ decode .ascii 0b11101010 = .ok .aRdrp ∧
    decode .ascii 0b11101011 = .ok .aUsh ∧ decode .ascii 0b11101100 = .ok .aM05 ∧ decode .ascii 0b11101101 = .ok .aM06 ∧
    decode .ascii 0b11101110 = .ok .aLx12 ∧ decode .ascii 0b11101111 = .ok .aLtxt ∧
    decode .ascii 0b11110000 = .ok .aLedf ∧ decode .ascii 0b11110001 = .ok .aEci := by decide

theorem test_decode_ascii_illegal :
    decode .ascii 0b11110010 = .ok (.aInv242 242) ∧ decode .ascii 0b11111101 = .ok (.aInv242 253) ∧
    decode .ascii 0b11111110 = .ok .aEnd254 ∧ decode .ascii 0b11111111 = .ok .aInv255 := by decide

theorem test_decode_unlatches :
    decode (.unlatch .c40) 0b11111110 = .ok .cUnl ∧ decode (.unlatch .text) 0b11111110 = .ok .tUnl ∧
    decode (.unlatch .x12) 0b11111110 = .ok .xUnl ∧ decode (.unlatch .c40) 0b11111101 = .error .notUnlatch := by decide

theorem test_decode_pairs :
    decode (.pair .c40) 0b0101100111101001 = .ok (.cPair 89 233) ∧
    decode (.pair .text) 0b0001010100000000 = .ok (.tPair 21 0) ∧
    decode (.pair .x12) 0b1111111111111111 = .ok (.xPair 255 255) ∧
    decode (.pair .c40) 0b1111111000000000 = .error .unlatchByte := by decide

theorem test_decode_c40_values :
    decode (.value .c40 .s0) 0b000010 = .ok (.cSh 2) ∧ decode (.value .c40 .s0) 0b000011 = .ok (.cBas 3) ∧
    decode (.value .c40 .s0) 0b101000 = .ok .cBasx ∧ decode (.value .c40 .s1) 0b101000 = .ok (.cS1 40) ∧
    decode (.value .c40 .s2) 0b011010 = .ok (.cS2 26) ∧ decode (.value .c40 .s2) 0b011011 = .ok .cS2f ∧
    decode (.value .c40 .s2) 0b011110 = .ok .cS2u ∧ decode (.value .c40 .s2) 0b011101 = .ok (.cS2x 29) ∧
    decode (.value .c40 .s3) 0b101000 = .ok (.cS3 40) := by decide

theorem test_decode_text_values :
    decode (.value .text .s0) 0b000000 = .ok (.tSh 0) ∧ decode (.value .text .s0) 0b100111 = .ok (.tBas 39) ∧
    decode (.value .text .s0) 0b101000 = .ok .tBasx ∧ decode (.value .text .s1) 0b000000 = .ok (.tS1 0) ∧
    decode (.value .text .s2) 0b000000 = .ok (.tS2 0) ∧ decode (.value .text .s2) 0b011011 = .ok .tS2f ∧
    decode (.value .text .s2) 0b011110 = .ok .tS2u ∧ decode (.value .text .s2) 0b011111 = .ok (.tS2x 31) ∧
    decode (.value .text .s3) 0b011111 = .ok (.tS3 31) ∧ decode (.value .text .s3) 0b100000 = .ok (.tS3x 32) := by decide

theorem test_decode_x12_values :
    decode .valueX12 0b000000 = .ok .xCr ∧ decode .valueX12 0b000001 = .ok .xStar ∧ decode .valueX12 0b000010 = .ok .xGt ∧
    decode .valueX12 0b000011 = .ok .xSp ∧ decode .valueX12 0b000100 = .ok (.xDig 4) ∧
    decode .valueX12 0b001101 = .ok (.xDig 13) ∧ decode .valueX12 0b001110 = .ok (.xLet 14) ∧
    decode .valueX12 0b100111 = .ok (.xLet 39) ∧ decode .valueX12 0b101000 = .ok .xInv ∧
    decode .valueX12 0b101001 = .error .valueAbove40 := by decide

theorem test_decode_sixbit :
    decode .sixbit 0b011111 = .ok .eUnl ∧ decode .sixbit 0b011110 = .ok (.eLo 30) ∧ decode .sixbit 0b000000 = .ok (.eLo 0) ∧
    decode .sixbit 0b100000 = .ok (.eHi 32) ∧ decode .sixbit 0b111111 = .ok (.eHi 63) := by decide

theorem test_decode_rawbytes :
    decode .header1 0b00000000 = .ok .bLen0 ∧ decode .header1 0b11111001 = .ok (.bLen1 249) ∧
    decode .header1 0b11111010 = .error .headerHasTwoBytes ∧ decode .header2 0b1111101000000101 = .ok (.bLen2 250 5) ∧
    decode .header2 0b1111100100000000 = .error .headerHasOneByte ∧ decode .data 0b10000001 = .ok (.bData 129) := by decide

/-- The words of the table as the host numbers them (log 8). -/
theorem test_table_words :
    decodeTableWord 8 230 = some .aLc40 ∧ decodeTableWord 6 31 = some .eUnl ∧
    decodeTableWord 16 0b0101100111101001 = some (.cPair 89 233) ∧ decodeTableWord 16 0b1111111000000000 = some .cUnl ∧
    decodeTableWord 8 256 = none := by decide

theorem test_fetch_word_ascii :
    got (step (State.reset.withFetchWord 8 66)) (fun t => (chars t, t.pos)) = some ([65], 8) := by decide

theorem test_fetch_word_pair :
    got (step (State.reset.withFetchWord 16 23017)) (fun t => (chars t, t.pos)) = some ([65, 66, 67], 16) := by decide

theorem test_fetch_word_sixbit :
    got (step (State.reset.withFetchWord 6 33)) (fun t => (chars t, t.pos)) = some ([33], 6) := by decide

/-! ## Operations (95_test_vectors.md sections 1 to 3 and 9) -/

/-- KC2 to KC5: 41, 19, 207, then too few bits. -/
theorem test_read_bits :
    memRead (Memory.ofBytes (bytes [165, 60, 240])) 0 6 = some 41 ∧
    memRead (Memory.ofBytes (bytes [165, 60, 240])) 6 6 = some 19 ∧
    memRead (Memory.ofBytes (bytes [165, 60, 240])) 12 8 = some 207 ∧
    memRead (Memory.ofBytes (bytes [165, 60, 240])) 4 8 = some 83 ∧
    codewordPositionAt .up 12 = 3 ∧ codewordPositionAt .down 12 = 2 := by decide

/-- UP7, UP12, UP13. -/
theorem test_unpack :
    unpack3 21 0 = some ⟨3, 14, 15⟩ ∧ unpack3 255 255 = some ⟨40, 38, 14⟩ ∧ unpack3 0 0 = none ∧
    pairBytes ⟨3, 14, 15⟩ = (21, 0) := by decide

/-- EX4, DR2, DR9, DR12. -/
theorem test_derandomize :
    derandomize 150 1 = 0 ∧ derandomize 149 1 = 255 ∧ derandomize 0 255 = 255 ∧ derandomize 93 1558 = 0 ∧
    randomize 3 2 = 47 ∧ randomize 200 255 = 201 := by decide

/-- EX5: `GRP(1, 31, 0, 0)`. -/
theorem test_group_bytes : groupBytes [1, 31, 0, 0] = [5, 240, 0] ∧ groupBytes [1, 31] = [5, 240] := by decide

/-- EX5: from POS = 20 an unlatch leaves the cursor, or moves it to 24. -/
theorem test_unlatch_realign :
    got (settle (sixbitUnlatch false { busyOn [240, 5, 240, 0] .edf (.sixbit 1) with pos := 20 })) State.pos = some 20 ∧
    got (settle (sixbitUnlatch true { busyOn [240, 5, 240, 0] .edf (.sixbit 1) with pos := 20 })) State.pos = some 24 := by
  decide

/-! ## One step or one meaning per unit -/

/-- AS11. -/
theorem test_aInv0 : got (step (busyOn [0] .ascii .ascii)) trap = some (.error, 1) := by decide

/-- AS2, AS18: with USH set the character is 128 higher and the flag is cleared. -/
theorem test_aLit :
    got (step (busyOn [66] .ascii .ascii)) shownBy = some ([65], .s0, false) ∧
    got (step { busyOn [128] .ascii .ascii with ush := true }) shownBy = some ([255], .s0, false) := by decide

/-- AS8. -/
theorem test_aPad :
    got (step (busyOn [129] .ascii .ascii)) (fun t => (t.mode, t.phase, t.pos)) = some (.pad, .loop, 8) := by decide

/-- AS5, AS21: the flag waits through a digit pair. -/
theorem test_aDig2 :
    got (step { busyOn [139] .ascii .ascii with ush := true }) shownBy = some ([48, 57], .s0, true) := by decide

/-- AS38. -/
theorem test_aLc40 : got (step (busyOn [230] .ascii .ascii)) (fun t => (t.mode, t.phase)) = some (.c40, .loop) := by decide

/-- AS39. -/
theorem test_aLb256 : got (step (busyOn [231] .ascii .ascii)) (fun t => (t.mode, t.phase)) = some (.b256, .loop) := by decide

/-- AS22. -/
theorem test_aFnc1 :
    got (step { busyOn [232] .ascii .ascii with ush := true }) shownBy = some ([29], .s0, true) := by decide

/-- AS14. -/
theorem test_aSapp : got (step (busyOn [233, 66] .ascii .ascii)) (fun t => (chars t, t.pos)) = some ([], 8) := by decide

/-- AS15. -/
theorem test_aRdrp : got (step (busyOn [234, 66] .ascii .ascii)) (fun t => (chars t, t.pos)) = some ([], 8) := by decide

/-- AS17. -/
theorem test_aUsh : got (step (busyOn [235, 1] .ascii .ascii)) shownBy = some ([], .s0, true) := by decide

/-- AS24. -/
theorem test_aM05 :
    got (step (busyOn [236] .ascii .ascii)) (fun t => (chars t, t.trl.map BitVec.toNat)) =
      some ([91, 41, 62, 30, 48, 53, 29], [30, 4]) := by decide

/-- AS27. -/
theorem test_aM06 :
    got (step (busyOn [237] .ascii .ascii)) (fun t => (chars t, t.trl.map BitVec.toNat)) =
      some ([91, 41, 62, 30, 48, 54, 29], [30, 4]) := by decide

/-- AS40. -/
theorem test_aLx12 : got (step (busyOn [238] .ascii .ascii)) (fun t => (t.mode, t.phase)) = some (.x12, .loop) := by decide

/-- AS41. -/
theorem test_aLtxt : got (step (busyOn [239] .ascii .ascii)) (fun t => (t.mode, t.phase)) = some (.text, .loop) := by decide

/-- AS42. -/
theorem test_aLedf : got (step (busyOn [240] .ascii .ascii)) (fun t => (t.mode, t.phase)) = some (.edf, .loop) := by decide

/-- AS16. -/
theorem test_aEci : got (step (busyOn [241, 66] .ascii .ascii)) (fun t => (chars t, t.pos)) = some ([], 8) := by decide

/-- AS30, AS31. -/
theorem test_aInv242 :
    got (step (busyOn [242] .ascii .ascii)) trap = some (.error, 2) ∧
    got (step (busyOn [253] .ascii .ascii)) trap = some (.error, 2) := by decide

/-- AS33, AS35. -/
theorem test_aEnd254 :
    got (step (busyOn [254] .ascii .ascii)) trap = some (.busy, 0) ∧
    got (step (busyOn [254, 66] .ascii .ascii)) trap = some (.error, 3) := by decide

/-- AS36. -/
theorem test_aInv255 : got (step (busyOn [255] .ascii .ascii)) trap = some (.error, 4) := by decide

/-- CB37; CB34: with exactly 8 bits left the segment ends and reads nothing. -/
theorem test_cUnl :
    got (step (busyOn [254, 66] .c40 (.triple .c40))) (fun t => (t.mode, t.phase, t.pos)) = some (.ascii, .loop, 8) ∧
    got (step (busyOn [66] .c40 (.triple .c40))) (fun t => (t.mode, t.phase, t.pos)) = some (.ascii, .loop, 0) := by decide

/-- TX21. -/
theorem test_tUnl :
    got (step (busyOn [254, 66] .text (.triple .text))) (fun t => (t.mode, t.phase, t.pos)) = some (.ascii, .loop, 8) := by
  decide

/-- XT10. -/
theorem test_xUnl :
    got (step (busyOn [254, 66] .x12 (.triple .x12))) (fun t => (t.mode, t.phase, t.pos)) = some (.ascii, .loop, 8) := by
  decide

/-- CB1, CB21: the value 30 of shift set 2, then a letter 128 higher. -/
theorem test_cPair :
    got (step (busyOn [89, 233] .c40 (.triple .c40))) (fun t => (chars t, t.pos, t.v.toNat)) = some ([65, 66, 67], 16, 23016) ∧
    got (step (busyOn [10, 255] .c40 (.triple .c40))) shownBy = some ([193], .s0, false) := by decide

/-- CB4: the error at the first value. CB6: the pair of zeros. -/
theorem test_cPair_errors :
    got (step (busyOn [250, 1] .c40 (.triple .c40))) trap = some (.error, 5) ∧
    got (step (busyOn [0, 0] .c40 (.triple .c40))) trap = some (.error, 9) := by decide

/-- TX1, TX15. -/
theorem test_tPair :
    got (step (busyOn [89, 233] .text (.triple .text))) shownBy = some ([97, 98, 99], .s0, false) ∧
    got (step (busyOn [16, 188] .text (.triple .text))) shownBy = some ([123, 32], .s0, false) := by decide

/-- XT2, XT7. -/
theorem test_xPair :
    got (step (busyOn [0, 43] .x12 (.triple .x12))) shownBy = some ([13, 42, 62], .s0, false) ∧
    got (step (busyOn [250, 1] .x12 (.triple .x12))) trap = some (.error, 8) := by decide

/-- R210: value 2 selects shift set 3 and leaves USH. -/
theorem test_cSh : got (exec (.cSh 2) { shifted .s0 with ush := true }) shownBy = some ([], .s3, true) := by decide

/-- R211: 13 is `9`, 14 is `A`. -/
theorem test_cBas :
    got (exec (.cBas 13) (shifted .s0)) chars = some [57] ∧ got (exec (.cBas 14) (shifted .s0)) chars = some [65] := by decide

/-- CB4. -/
theorem test_cBasx : got (exec .cBasx (shifted .s0)) trap = some (.error, 5) := by decide

/-- CB11, CB30: 39 is itself; with USH it is 128 higher. -/
theorem test_cS1 :
    got (exec (.cS1 39) (shifted .s1)) shownBy = some ([39], .s0, false) ∧
    got (exec (.cS1 5) { shifted .s1 with ush := true }) shownBy = some ([133], .s0, false) := by decide

/-- CB14, CB17. -/
theorem test_cS2 :
    got (exec (.cS2 15) (shifted .s2)) shownBy = some ([58], .s0, false) ∧
    got (exec (.cS2 26) (shifted .s2)) shownBy = some ([95], .s0, false) := by decide

/-- CB28: FNC1 leaves the flag for the next character. -/
theorem test_cS2f : got (exec .cS2f { shifted .s2 with ush := true }) shownBy = some ([29], .s0, true) := by decide

/-- CB21. -/
theorem test_cS2u : got (exec .cS2u (shifted .s2)) shownBy = some ([], .s0, true) := by decide

/-- CB19. -/
theorem test_cS2x : got (exec (.cS2x 28) (shifted .s2)) trap = some (.error, 6) := by decide

/-- CB26, CB32: no table and no check; the largest character. -/
theorem test_cS3 :
    got (exec (.cS3 32) (shifted .s3)) shownBy = some ([128], .s0, false) ∧
    got (exec (.cS3 40) { shifted .s3 with ush := true }) shownBy = some ([264], .s0, false) := by decide

/-- R220. -/
theorem test_tSh : got (exec (.tSh 0) (shifted .s0)) shownBy = some ([], .s1, false) := by decide

/-- TX4: 39 is `z`. R221: 3 is a space. -/
theorem test_tBas :
    got (exec (.tBas 39) (shifted .s0)) chars = some [122] ∧ got (exec (.tBas 3) (shifted .s0)) chars = some [32] := by decide

/-- TX5. -/
theorem test_tBasx : got (exec .tBasx (shifted .s0)) trap = some (.error, 5) := by decide

/-- TX7. -/
theorem test_tS1 : got (exec (.tS1 10) (shifted .s1)) shownBy = some ([10], .s0, false) := by decide

/-- TX8. -/
theorem test_tS2 : got (exec (.tS2 26) (shifted .s2)) shownBy = some ([95], .s0, false) := by decide

/-- TX9. -/
theorem test_tS2f : got (exec .tS2f (shifted .s2)) shownBy = some ([29], .s0, false) := by decide

/-- TX10. -/
theorem test_tS2u : got (exec .tS2u (shifted .s2)) shownBy = some ([], .s0, true) := by decide

/-- TX11. -/
theorem test_tS2x : got (exec (.tS2x 31) (shifted .s2)) trap = some (.error, 6) := by decide

/-- TX14, TX16. -/
theorem test_tS3 :
    got (exec (.tS3 26) (shifted .s3)) shownBy = some ([90], .s0, false) ∧
    got (exec (.tS3 31) (shifted .s3)) shownBy = some ([127], .s0, false) := by decide

/-- TX17. -/
theorem test_tS3x : got (exec (.tS3x 32) (shifted .s3)) trap = some (.error, 7) := by decide

/-- XT2: no flag is read or written. -/
theorem test_x12_controls :
    got (exec .xCr { shifted .s2 with ush := true }) shownBy = some ([13], .s2, true) ∧
    got (exec .xStar (shifted .s0)) chars = some [42] ∧ got (exec .xGt (shifted .s0)) chars = some [62] ∧
    got (exec .xSp (shifted .s0)) chars = some [32] := by decide

/-- XT3. -/
theorem test_xDig :
    got (exec (.xDig 4) (shifted .s0)) chars = some [48] ∧ got (exec (.xDig 13) (shifted .s0)) chars = some [57] := by decide

/-- XT4. -/
theorem test_xLet :
    got (exec (.xLet 14) (shifted .s0)) chars = some [65] ∧ got (exec (.xLet 39) (shifted .s0)) chars = some [90] := by decide

/-- XT7. -/
theorem test_xInv : got (exec .xInv (shifted .s0)) trap = some (.error, 8) := by decide

/-- SB14: an unlatch in place 1 consumes its six bits. SB6: with 16 bits nothing is read. -/
theorem test_eUnl :
    got (step (busyOn [124, 0, 0] .edf (.sixbit 0))) (fun t => (t.mode, t.phase, t.pos)) = some (.ascii, .loop, 6) ∧
    got (step (busyOn [5, 240] .edf (.sixbit 0))) (fun t => (t.mode, t.phase, t.pos)) = some (.ascii, .loop, 0) := by decide

/-- SB2: values 0 and 30. -/
theorem test_eLo :
    got (exec (.eLo 0) (busyOn [] .edf (.sixbit 0))) (fun t => (chars t, t.phase)) = some ([64], .sixbit 1) ∧
    got (exec (.eLo 30) (busyOn [] .edf (.sixbit 3))) (fun t => (chars t, t.phase)) = some ([94], .sixbit 0) := by decide

/-- SB2: values 32 and 63. -/
theorem test_eHi :
    got (exec (.eHi 32) (busyOn [] .edf (.sixbit 2))) chars = some [32] ∧
    got (exec (.eHi 63) (busyOn [] .edf (.sixbit 3))) chars = some [63] := by decide

/-- RB1: the header 44 at position 2 is 0; two bytes remain. -/
theorem test_bLen0 :
    got (step { busyOn [231, 44, 2, 64] .b256 .rawHeader with pos := 8, p := 2 }) (fun t => (t.cnt, t.p, t.phase)) =
      some (2, 3, .rawData) := by decide

/-- RB4: the header 47 at position 2 is 3. -/
theorem test_bLen1 :
    got (step { busyOn [231, 47, 107, 87, 235] .b256 .rawHeader with pos := 8, p := 2 }) (fun t => (t.cnt, t.p, t.phase)) =
      some (3, 3, .rawData) := by decide

/-- RB14: the header 38, 198 at positions 2 and 3 is 250, 5. RB9: the second byte is missing. -/
theorem test_bLen2 :
    got (step { busyOn [231, 38, 198] .b256 .rawHeader with pos := 8, p := 2 }) (fun t => (t.cnt, t.p, t.pos)) =
      some (255, 4, 24) ∧
    got (step { busyOn [231, 38] .b256 .rawHeader with pos := 8, p := 2 }) trap = some (.error, 11) := by decide

/-- RB4: 107 at position 3 is 170. RB7: no byte is left for the count. -/
theorem test_bData :
    got (step { busyOn [231, 47, 107] .b256 .rawData with pos := 16, p := 3, cnt := 3 }) (fun t => (held t, t.p)) =
      some ([170], 4) ∧
    got (step { busyOn [231, 45] .b256 .rawData with pos := 16, p := 3, cnt := 1 }) trap = some (.error, 11) := by decide

/-! ## The host (70_reset_and_hazards.md R380 to R387) -/

/-- RB2: one empty segment is not "absent". -/
theorem test_segments_out : segmentsOut [[]] = some [[]] ∧ segmentsOut [] = none := by decide

/-- AS2 from launch to the result. -/
theorem test_run_of_one_literal :
    got (steps 5 (invoked [66] State.reset)) readResult = some (some ⟨[65], none, [66], .absent⟩) := by decide

/-- R320, R383: a buffer supplied after completion leaves the result as it was; R381: a launch drops it. -/
theorem test_result_stays_until_launch :
    got (steps 5 (invoked [66] State.reset)) (fun t => readResult (loadBuffer [67, 68] t)) =
      some (some ⟨[65], none, [66], .absent⟩) ∧
    got (steps 5 (invoked [66] State.reset)) (fun t => readResult (invoked [67, 68] t)) = some none := by decide

/-- R35, R380: CW is not readable in IDLE, nor while BUSY; it is in DONE and in ERROR; ERR is shown when RUN = ERROR. -/
theorem test_status_and_read_cw :
    readCw State.reset = none ∧ readCw (loadBuffer [66] State.reset) = none ∧ readCw (invoked [66] State.reset) = none ∧
    got (steps 5 (invoked [66] State.reset)) readCw = some (some [66]) ∧
    got (steps 3 (invoked [0] State.reset)) readCw = some (some [0]) ∧ status State.reset = ⟨.idle, none⟩ ∧
    got (steps 3 (invoked [0] State.reset)) status = some ⟨.error, some ⟨.format, some .asciiZero⟩⟩ := by decide

/-! ## Witnesses: states and operands that meet the hypotheses of the statements -/

/-- Of `Obligations.DecodeInvertsEncode`. -/
theorem witness_DecodeInvertsEncode :
    (Instr.aDig2 99).wf = true ∧ (Instr.cPair 255 255).wf = true ∧ (Instr.tS3x 40).wf = true ∧ (Instr.eHi 32).wf = true ∧
    (Instr.bLen2 250 0).wf = true := by decide

/-- Of `Obligations.EveryValueHasExactlyOneRow`: values a context admits and the ones next to them that it does not. -/
theorem witness_EveryValueHasExactlyOneRow :
    admits .ascii 255 ∧ ¬ admits .ascii 256 ∧ admits (.unlatch .c40) 254 ∧ ¬ admits (.unlatch .c40) 253 ∧
    admits (.pair .text) 65535 ∧ ¬ admits (.pair .text) 65024 ∧ admits (.value .text .s3) 40 ∧
    ¬ admits (.value .text .s3) 41 ∧ admits .valueX12 40 ∧ ¬ admits .valueX12 41 ∧ admits .sixbit 63 ∧ ¬ admits .sixbit 64 ∧
    admits .header1 249 ∧ ¬ admits .header1 250 ∧ admits .header2 64000 ∧ ¬ admits .header2 63999 ∧ admits .data 255 ∧
    ¬ admits .data 256 := by simp [admits]

/-- The hypotheses of `Obligations.EncodedBytesAtTheCursorRun`. -/
def laidOut (i : Instr) (bs : List Byte) (k : Nat) (s : State) : Prop :=
  i.wf = true ∧ encodeBytes (k + 1) i = some bs ∧ s.run = .busy ∧ s.pos = 8 * k ∧
    (∀ j : Nat, j < bs.length → s.cw.read (k + j) = bs[j]?) ∧ k + bs.length ≤ s.n ∧ readsAt i.ctx (k + 1) s

theorem witness_EncodedBytesAtTheCursorRun_ascii : laidOut (.aLit 65) [66] 0 (busyOn [66] .ascii .ascii) :=
  ⟨by decide, by decide, rfl, rfl, by decide, by decide, rfl⟩

theorem witness_EncodedBytesAtTheCursorRun_unlatch :
    laidOut .cUnl [254] 1 { busyOn [230, 254, 66] .c40 (.triple .c40) with pos := 8 } :=
  ⟨by decide, by decide, rfl, rfl, by decide, by decide, rfl, by decide⟩

theorem witness_EncodedBytesAtTheCursorRun_pair :
    laidOut (.cPair 89 233) [89, 233] 1 { busyOn [230, 89, 233] .c40 (.triple .c40) with pos := 8 } :=
  ⟨by decide, by decide, rfl, rfl, by decide, by decide, rfl⟩

theorem witness_EncodedBytesAtTheCursorRun_header1 :
    laidOut (.bLen1 3) [47] 1 { busyOn [231, 47] .b256 .rawHeader with pos := 8, p := 2 } :=
  ⟨by decide, by decide, rfl, rfl, by decide, by decide, rfl, rfl⟩

theorem witness_EncodedBytesAtTheCursorRun_header2 :
    laidOut (.bLen2 250 5) [38, 198] 1 { busyOn [231, 38, 198] .b256 .rawHeader with pos := 8, p := 2 } :=
  ⟨by decide, by decide, rfl, rfl, by decide, by decide, rfl, rfl⟩

theorem witness_EncodedBytesAtTheCursorRun_data :
    laidOut (.bData 170) [107] 2 { busyOn [231, 47, 107] .b256 .rawData with pos := 16, p := 3, cnt := 3 } :=
  ⟨by decide, by decide, rfl, rfl, by decide, by decide, rfl, rfl, by decide⟩

/-- Of `Obligations.SixbitGroupReadsBack`, at the ends of the value range. -/
theorem witness_SixbitGroupReadsBack :
    ∀ j : Nat, j < 3 →
      (Memory.ofBytes (7 :: groupBytes [0, 63, 31, 32])).read (1 + j) = (groupBytes [0, 63, 31, 32])[j]? := by decide

/-- Of `Obligations.UnpackInvertsPack`: the largest pair, and the smallest. -/
theorem witness_UnpackInvertsPack :
    pack3 ⟨40, 38, 14⟩ = 65535 ∧ unpack3 255 255 = some ⟨40, 38, 14⟩ ∧ unpack3 0 1 = some ⟨0, 0, 0⟩ ∧
    unpack3 0 0 = none := by decide

/-- Of `Obligations.MemReadIsTheSumOfItsBits`: a read across two bytes. -/
theorem witness_MemReadIsTheSumOfItsBits :
    (∀ k : Nat, k < 8 →
      (Memory.ofBytes [165, 60]).read ((4 + k) / 8) = some ((fun i : Nat => if i = 0 then (165 : Byte) else 60) ((4 + k) / 8))) ∧
    (Memory.ofBytes [165, 60]).read 0 = some 165 ∧ (Memory.ofBytes [165, 60]).read (0 + 1) = some 60 := by decide

/-- Of `Obligations.ReadBitsIsBounded`: exactly enough bits, and one too few. -/
theorem witness_ReadBitsIsBounded :
    BufferFilled { busyOn [1, 2] .ascii .ascii with pos := 8 } ∧ CursorInside { busyOn [1, 2] .ascii .ascii with pos := 8 } ∧
    8 ≤ 8 * 2 - 8 ∧ 8 * 2 - 8 < 9 := by decide

/-- Of `Obligations.SixbitUnlatchForBothRealignValues`. -/
theorem witness_SixbitUnlatchForBothRealignValues :
    BufferFilled { busyOn [240, 5, 240, 0] .edf (.sixbit 1) with pos := 20 } ∧
    CursorInside { busyOn [240, 5, 240, 0] .edf (.sixbit 1) with pos := 20 } := by decide

/-- Of `Obligations.ShortReadsRaiseOutOfData`: 1 and 7 bits left, 5 bits left, no bit left. -/
theorem witness_ShortReadsRaiseOutOfData :
    available { busyOn [1] .ascii .ascii with pos := 7 } = 1 ∧ available { busyOn [1] .ascii .ascii with pos := 1 } = 7 ∧
    available { busyOn [1] .c40 (.triple .c40) with pos := 1 } = 7 ∧
    available { busyOn [1] .edf (.sixbit 3) with pos := 3 } = 5 ∧ available { busyOn [1] .b256 .rawHeader with pos := 4 } = 4 ∧
    available { busyOn [1] .b256 .rawData with pos := 8, cnt := 1 } = 0 := by decide

/-- The two clauses of `Obligations.ShortReadsRaiseOutOfData` about a second read: 9 and 15 bits left before a pair, 8 and 15 before a header whose
first byte derandomizes to 250. -/
theorem witness_ShortReadsRaiseOutOfData_second :
    available { busyOn [1, 2] .c40 (.triple .c40) with pos := 7 } = 9 ∧ memRead (busyOn [1, 2] .c40 .loop).cw 7 8 = some 129 ∧
    available { busyOn [1, 2] .x12 (.triple .x12) with pos := 1 } = 15 ∧ memRead (busyOn [1, 2] .c40 .loop).cw 1 8 = some 2 ∧
    available { busyOn [231, 38] .b256 .rawHeader with pos := 8, p := 2 } = 8 ∧
    memRead (busyOn [231, 38] .b256 .loop).cw 8 8 = some 38 ∧
    available { busyOn [19, 0] .b256 .rawHeader with pos := 1, p := 2 } = 15 ∧
    memRead (busyOn [19, 0] .b256 .loop).cw 1 8 = some 38 ∧ 250 ≤ (derandomize (BitVec.ofNat 8 38) 2).toNat := by decide

/-- Of `Obligations.OnlySixbitMisalignsTheCursor`. -/
theorem witness_OnlySixbitMisalignsTheCursor :
    (∃ t, step (busyOn [66] .ascii .ascii) = .next t) ∧ ∀ k, (busyOn [66] .ascii .ascii).phase ≠ .sixbit k :=
  ⟨⟨_, rfl⟩, by decide⟩

/-- Of `Obligations.AsciiLiteralEmitsItsCharacter`, `Obligations.AsciiDigitPairEmitsTwoDigits` and the range of
`Obligations.IllegalAsciiCodewordsRaise`: both ends of each range, and a state in which no bit is left. -/
theorem witness_ascii_ranges :
    (1 ≤ 1 ∧ 1 ≤ 128) ∧ (1 ≤ 128 ∧ 128 ≤ 128) ∧ (130 ≤ 130 ∧ 130 ≤ 229) ∧ (130 ≤ 229 ∧ 229 ≤ 229) ∧ (242 ≤ 242 ∧ 242 ≤ 253) ∧
    (242 ≤ 253 ∧ 253 ≤ 253) ∧ available { busyOn [254] .ascii .ascii with pos := 8 } = 0 ∧
    available { busyOn [254, 1] .ascii .ascii with pos := 8 } ≠ 0 := by decide

/-- Of `Obligations.OnlyLiteralsConsumeAsciiUpperShift`: a unit that sets the flag and one that clears it. -/
theorem witness_OnlyLiteralsConsumeAsciiUpperShift :
    Instr.aUsh.ctx = .ascii ∧ Instr.aUsh.wf = true ∧ got (exec .aUsh (shifted .s0)) State.ush = some true ∧
    (Instr.aLit 65).ctx = .ascii ∧ (Instr.aLit 65).wf = true ∧
    got (exec (.aLit 65) { shifted .s0 with ush := true }) State.ush = some false := by decide

/-- Of the statements about values: both ends of each range (`ShiftValuesSelectTheNextSet`, `BasicSetsEmitSpaceDigitsLetters`,
`ValuesOutsideTheTablesRaise`, `ShiftOneEmitsTheValueItself`, `ShiftTwoEmitsPunctuation`, `ShiftThreeOfTheTwoModes`,
`X12ValuesEmitTheirCharacters`, `SixbitValuesEmitTheirCharacters`). -/
theorem witness_value_ranges :
    (0 : Val).toNat ≤ 2 ∧ (2 : Val).toNat ≤ 2 ∧ (3 ≤ (3 : Val).toNat ∧ (3 : Val).toNat ≤ 39) ∧
    (3 ≤ (39 : Val).toNat ∧ (39 : Val).toNat ≤ 39) ∧ (28 : Val).toNat = 28 ∧ (29 : Val).toNat = 29 ∧
    (31 ≤ (31 : Val).toNat ∧ (40 : Val).toNat ≤ 40) ∧ (32 ≤ (32 : Val).toNat ∧ (32 : Val).toNat ≤ 40) ∧
    (26 : Val).toNat ≤ 26 ∧ (31 : Val).toNat ≤ 31 ∧ (4 ≤ (4 : Val).toNat ∧ (13 : Val).toNat ≤ 13) ∧
    (14 ≤ (14 : Val).toNat ∧ (39 : Val).toNat ≤ 39) ∧ (30 : Val).toNat ≤ 30 ∧ 32 ≤ (32 : Val).toNat ∧
    32 ≤ (63 : Val).toNat := by decide

/-- Of `Obligations.PairRunsItsValuesInOrder`. -/
theorem witness_PairRunsItsValuesInOrder :
    (shifted .s0).run = .busy ∧ unpack3 89 233 = some ⟨14, 15, 16⟩ ∧ unpack3 0 0 = none := by decide

/-- Of `Obligations.PairEffectIsThePureFunctions`: a pair with characters under each mode, one with an error. -/
theorem witness_PairEffectIsThePureFunctions :
    Fn.pair .c40 .s0 false 89 233 = .ok ⟨[65, 66, 67], .s0, false⟩ ∧ Fn.pair .text .s0 false 16 188 = .ok ⟨[123, 32], .s0, false⟩ ∧
    Fn.pair .x12 .s0 false 0 43 = .ok ⟨[13, 42, 62], .s0, false⟩ ∧ Fn.pair .c40 .s0 false 250 1 = .error .b40Basic ∧
    Fn.pair .text .s2 true 0 0 = .error .tripleZero := by decide

/-- Of `Obligations.SixbitUnlatchConsumesSixBits`: in the first place with 24 bits left, and in the last. -/
theorem witness_SixbitUnlatchConsumesSixBits :
    (16 < available (busyOn [124, 0, 0] .edf (.sixbit 0)) ∧ memRead (busyOn [124, 0, 0] .edf (.sixbit 0)).cw 0 6 = some 31) ∧
    ((3 : Fin 4) ≠ 0 ∧ 6 ≤ available { busyOn [4, 32, 223] .edf (.sixbit 3) with pos := 18 } ∧
      memRead (busyOn [4, 32, 223] .edf (.sixbit 3)).cw 18 6 = some 31) := by decide

/-- Of `Obligations.RawBytesHeadersGiveTheLength`: both ends of each range. -/
theorem witness_RawBytesHeadersGiveTheLength :
    1 ≤ (1 : Byte).toNat ∧ (249 : Byte).toNat ≤ 249 ∧ 250 ≤ (250 : Byte).toNat ∧ 250 ≤ (255 : Byte).toNat := by decide

/-- Of `Obligations.RawBytesDataJoinsTheSegment` and `Obligations.RawBytesSegmentIsAppendedWhole`. -/
theorem witness_rawData :
    (busyOn [107] .b256 .rawData).run = .busy ∧
    (({ busyOn [107] .b256 .rawData with cnt := 1 } : State).segbuf.length <
      ({ busyOn [107] .b256 .rawData with cnt := 1 } : State).cnt) ∧
    8 ≤ available (busyOn [107] .b256 .rawData) ∧ memRead (busyOn [107] .b256 .rawData).cw 0 8 = some 107 ∧
    (busyOn [107] .b256 .rawData).segbuf.length = (busyOn [107] .b256 .rawData).cnt := by decide

/-- The clauses of `Obligations.StepRunsTheDecodedUnit` for ASCII, the triple modes and Sixbit. -/
theorem witness_StepRunsTheDecodedUnit :
    (∃ s1, readBits 8 (busyOn [66] .ascii .ascii) = .ok (66, s1) ∧ decode .ascii 66 = .ok (.aLit 65)) ∧
    (∃ s1, readBits 8 (busyOn [254, 66] .c40 (.triple .c40)) = .ok (254, s1) ∧
      available (busyOn [254, 66] .c40 (.triple .c40)) ≠ 8 ∧ decode (.unlatch .c40) 254 = .ok .cUnl) ∧
    (∃ s1 s2, readBits 8 (busyOn [89, 233] .c40 (.triple .c40)) = .ok (89, s1) ∧
      readBits 8 { s1 with b1 := BitVec.ofNat 8 89 } = .ok (233, s2) ∧
      decode (.pair .c40) (89 * 256 + 233) = .ok (.cPair 89 233)) ∧
    (∃ s1, readBits 6 (busyOn [4, 44, 114] .edf (.sixbit 0)) = .ok (1, s1) ∧
      16 < available (busyOn [4, 44, 114] .edf (.sixbit 0)) ∧ decode .sixbit 1 = .ok (.eLo 1)) :=
  ⟨⟨_, rfl, rfl⟩, ⟨_, rfl, by decide, rfl⟩, ⟨_, _, rfl, rfl, rfl⟩, ⟨_, rfl, by decide, rfl⟩⟩

/-- The RawBytes clauses of `Obligations.StepRunsTheDecodedUnit`. -/
theorem witness_StepRunsTheDecodedUnit_raw :
    (∃ s1, readRaw { busyOn [231, 47] .b256 .rawHeader with pos := 8, p := 2 } = .ok (3, s1) ∧
      decode .header1 3 = .ok (.bLen1 3)) ∧
    (∃ s1 s2, readRaw { busyOn [231, 38, 198] .b256 .rawHeader with pos := 8, p := 2 } = .ok (250, s1) ∧
      readRaw { s1 with d1 := 250 } = .ok (5, s2) ∧ decode .header2 (250 * 256 + 5) = .ok (.bLen2 250 5)) ∧
    (∃ s1, readRaw { busyOn [231, 47, 107] .b256 .rawData with pos := 16, p := 3, cnt := 3 } = .ok (170, s1) ∧
      decode .data 170 = .ok (.bData 170)) :=
  ⟨⟨_, rfl, rfl⟩, ⟨_, _, rfl, rfl, rfl⟩, ⟨_, rfl, rfl⟩⟩

/-- Of `Obligations.LoopEntersTheDecoderOfTheMode` and `Obligations.LoopEndAppendsTheTrailerOnce`: every mode. -/
theorem witness_loop :
    (∀ m : TripleMode, (busyOn [1] m.mode .loop).mode = m.mode) ∧ 0 < available (busyOn [1] .edf .loop) ∧
    (busyOn [1] .b256 .loop).phase = .loop ∧ (busyOn [1] .pad .loop).mode = .pad ∧ available (busyOn [] .c40 .loop) = 0 :=
  ⟨fun _ => rfl, by decide, rfl, rfl, by decide⟩

/-- Of `Obligations.SegmentsEndOnTooFewBits`: each end test at its boundary. -/
theorem witness_SegmentsEndOnTooFewBits :
    available (busyOn [] .ascii .ascii) = 0 ∧ available (busyOn [] .x12 (.triple .x12)) = 0 ∧
    available (busyOn [9] .x12 (.triple .x12)) = 8 ∧ available (busyOn [9, 9] .edf (.sixbit 0)) = 16 := by decide

/-- Of `Obligations.ModeMovesAlongTheGraph`. -/
theorem witness_ModeMovesAlongTheGraph :
    phaseAgrees (busyOn [230] .ascii .ascii) = true ∧ ∃ t, step (busyOn [230] .ascii .ascii) = .next t :=
  ⟨rfl, _, rfl⟩

/-- Of `Obligations.AbortRecordsItsCauseAndIsFinal` and `Obligations.TwoErrorsAreNeverRaised`. -/
theorem witness_abort :
    ∃ t, (busyOn [0] .ascii .ascii).run = .busy ∧ step (busyOn [0] .ascii .ascii) = .next t ∧ t.run = .error ∧
      (busyOn [0] .ascii .ascii).err.kind ≠ .encodingCapability ∧
      (busyOn [0] .ascii .ascii).err.cause ≠ some .b256Length :=
  ⟨_, rfl, rfl, rfl, by decide, by decide⟩

/-- Of `Obligations.UnitsChangeOnlyWhatTheirRulesName` and `Obligations.StepsKeepTheBufferAndOnlyGrow`. -/
theorem witness_next_states :
    (∃ t, exec (.bLen1 1) (busyOn [45] .b256 .rawHeader) = .next t) ∧ (∃ t, exec .aM05 (shifted .s0) = .next t) ∧
    (∃ t, step (busyOn [231] .ascii .ascii) = .next t) :=
  ⟨⟨_, rfl⟩, ⟨_, rfl⟩, ⟨_, rfl⟩⟩

/-- Of `Obligations.NothingHappensUnlessBusy`. -/
theorem witness_NothingHappensUnlessBusy : State.reset.run ≠ .busy := by decide

/-- Of `Obligations.LaunchSetsTheLaunchValues`: both clauses. -/
theorem witness_LaunchSetsTheLaunchValues :
    (loadBuffer [66] State.reset).run ≠ .busy ∧ (loadBuffer [66] State.reset).supplied = true ∧
    (busyOn [66] .ascii .loop).run = .busy := by decide

/-- Of `Obligations.SupplyPlacesTheBytes`: the empty buffer is accepted whatever N_MAX is. -/
theorem witness_SupplyPlacesTheBytes : ∃ t, supply [] State.reset = .next t :=
  ⟨_, supply_next_iff.mpr ⟨by decide, accepts_empty, rfl⟩⟩

/-- Of `Obligations.ResultIsReadableOnlyWhenDone`: both statuses, and both kinds of SEGS. -/
theorem witness_ResultIsReadableOnlyWhenDone :
    State.reset.run ≠ .done ∧ ({ State.reset with run := .done } : State).segs = [] ∧
    ({ State.reset with run := .done, segs := [[]] } : State).segs ≠ [] := by decide

/-- Of `Obligations.ResultReturnsTheSuppliedBuffer` and `Obligations.CompletedOutputsFitTheirBounds`. -/
theorem witness_finished_run :
    ∃ t r, steps 5 (invoked [66] State.reset) = .next t ∧ readResult t = some r ∧ t.run = .done :=
  ⟨_, _, rfl, rfl, rfl⟩

/-- Of the statements that assume the invariant: a busy state inside a RawBytes run meets it and steps. -/
theorem witness_invariant :
    Inv { busyOn [231, 47, 107] .b256 .rawData with pos := 16, p := 3, cnt := 3 } ∧
    ∃ t, step { busyOn [231, 47, 107] .b256 .rawData with pos := 16, p := 3, cnt := 3 } = .next t :=
  ⟨⟨rfl, by decide, rfl, by simp [CharsBounded, busyOn, State.reset], rfl, rfl, rfl, fun _ => rfl⟩, _, rfl⟩

/-- Of `Obligations.SupplyThenLaunchKeepsTheInvariant`: a state that a launch runs from, and one that a supply runs from. -/
theorem witness_SupplyThenLaunchKeepsTheInvariant :
    (Inv (loadBuffer [66] State.reset) ∧ (loadBuffer [66] State.reset).run ≠ .busy ∧
      ∃ t, launch (loadBuffer [66] State.reset) = .next t) ∧
    Inv State.reset ∧ ∃ t, supply [] State.reset = .next t :=
  ⟨⟨⟨rfl, by decide, rfl, by simp [CharsBounded, loadBuffer, State.reset], rfl, rfl, rfl, fun _ => rfl⟩, by decide, _, rfl⟩,
    ⟨rfl, by decide, rfl, by simp [CharsBounded, State.reset], rfl, rfl, rfl, by simp [State.reset]⟩,
    witness_SupplyPlacesTheBytes⟩

/-- Of `Obligations.StepKeepsTheCapacityBounds`. -/
theorem witness_StepKeepsTheCapacityBounds :
    Capacity (busyOn [236] .ascii .ascii) ∧ ∃ t, step (busyOn [236] .ascii .ascii) = .next t :=
  ⟨by decide, _, rfl⟩

/-- Of `Obligations.StatusAndReadCwAnswerAsTheTableSays`: each status, the ended ones over a filled buffer. -/
theorem witness_StatusAndReadCwAnswerAsTheTableSays :
    State.reset.run = .idle ∧ (invoked [66] State.reset).run = .busy ∧
    Finished { loadBuffer [66] State.reset with run := .done } ∧
    BufferFilled { loadBuffer [66] State.reset with run := .done } ∧
    Finished { loadBuffer [66] State.reset with run := .error } ∧
    BufferFilled { loadBuffer [66] State.reset with run := .error } :=
  ⟨rfl, rfl, .inl rfl, rfl, .inr rfl, rfl⟩

/-- Of `Obligations.OutputsStayUntilTheNextLaunch`: a completed machine that steps, and one that a supply finds. -/
theorem witness_OutputsStayUntilTheNextLaunch :
    Finished { State.reset with run := .done } ∧ (∃ t, step { State.reset with run := .done } = .next t) ∧
    ∃ t, supply [] { State.reset with run := .done } = .next t :=
  ⟨.inl rfl, ⟨_, rfl⟩, _, supply_next_iff.mpr ⟨by decide, accepts_empty, rfl⟩⟩

end Sys2Proof.Tests
end

section
/-! PROOFS. The family 10_state.md: what every step keeps (R21, R22, R36), the invariant, and that no step stops. -/

namespace Sys2Proof.Machine

variable {s t : State}

/-! ## What one step changes, field by field -/

/-- No step writes the buffer, its length, SA, or the host's flag. -/
theorem Stepped.sameBuffer (h : Stepped s (.next t)) : SameBuffer s t := by
  cases h
  case short r _ hr => obtain rfl | ⟨-, p, x, y, rfl, -⟩ := hr <;> exact ⟨rfl, rfl, rfl, rfl⟩
  case pair ht | pairRaise ht _ => obtain ⟨v, c, l, sh, u, -, -, rfl⟩ := ht; exact ⟨rfl, rfl, rfl, rfl⟩
  all_goals exact ⟨rfl, rfl, rfl, rfl⟩

/-- A step moves POS forward by at most the bits that are left, and by whole bytes outside a Sixbit segment. -/
theorem Stepped.pos_eq (h : Stepped s (.next t)) :
    ∃ d, t.pos = s.pos + d ∧ (d = 0 ∨ d ≤ available s) ∧ ((∀ k, s.phase ≠ .sixbit k) → d % 8 = 0) := by
  cases h
  case short r _ hr =>
    obtain rfl | ⟨h8, p, x, y, rfl, -⟩ := hr
    · exact ⟨0, rfl, .inl rfl, fun _ => rfl⟩
    · exact ⟨8, rfl, .inr h8, fun _ => rfl⟩
  case asciiEmit h8 _ _ | asciiMacro h8 _ | asciiReturn h8 | asciiRaise h8 _ | header1 h8 | data h8 _ =>
    exact ⟨8, rfl, .inr h8, fun _ => rfl⟩
  case unlatch h8 => exact ⟨8, rfl, .inr h8.le, fun _ => rfl⟩
  case header2 h16 => exact ⟨16, rfl, .inr h16, fun _ => rfl⟩
  case pair h16 ht | pairRaise h16 ht _ =>
    obtain ⟨v, c, l, sh, u, -, -, rfl⟩ := ht
    exact ⟨16, rfl, .inr h16, fun _ => rfl⟩
  case sixbitEnd k _ hp h6 | sixbitEmit k _ _ hp h6 _ => exact ⟨6, rfl, .inr h6, fun hk => absurd hp (hk k)⟩
  all_goals exact ⟨0, rfl, .inl rfl, fun _ => rfl⟩

theorem macroHeader_le {hd : List Nat} (h : hd = macro05Header ∨ hd = macro06Header) : ∀ x ∈ hd, x ≤ 264 := by
  rcases h with rfl | rfl <;> decide

theorem chars_toNat_le {l : List Nat} (h : ∀ x ∈ l, x ≤ 264) : ∀ ch ∈ l.map (BitVec.ofNat 16), ch.toNat ≤ 264 := by
  simpa using fun x hx => char_toNat_le (h x hx)

theorem latin1_toNat_le (b : Byte) : (latin1 b).toNat ≤ 264 := by
  have := b.isLt
  simp [latin1]
  omega

/-- A step only appends to TEXT: characters of at most 264, or the trailer. -/
theorem Stepped.text_eq (h : Stepped s (.next t)) :
    ∃ l, t.text = s.text ++ l ∧ ((∀ ch ∈ l, ch.toNat ≤ 264) ∨ l = s.trl) := by
  cases h
  case loopEnd => exact ⟨s.trl, complete_text s, .inr rfl⟩
  case segment =>
    exact ⟨s.segbuf.map latin1, rfl, .inl (by simpa using fun b _ => latin1_toNat_le b)⟩
  case short r _ hr => obtain rfl | ⟨-, p, x, y, rfl, -⟩ := hr <;> exact ⟨[], by simp, .inl (by simp)⟩
  case asciiEmit l _ _ _ _ hb => exact ⟨l, rfl, .inl hb⟩
  case asciiMacro hd _ _ hh => exact ⟨hd.map (BitVec.ofNat 16), rfl, .inl (chars_toNat_le (macroHeader_le hh))⟩
  case pair ht | pairRaise ht _ => obtain ⟨v, c, l, sh, u, -, hb, rfl⟩ := ht; exact ⟨l, rfl, .inl hb⟩
  case sixbitEmit ch _ _ hb => exact ⟨[BitVec.ofNat 16 ch], rfl, .inl (by simpa using char_toNat_le hb)⟩
  all_goals exact ⟨[], by simp, .inl (by simp)⟩

/-- A step leaves TRL, or puts one trailer in front of it. -/
theorem Stepped.trl_eq (h : Stepped s (.next t)) :
    t.trl = s.trl ∨ t.trl = macroTrailer.map (BitVec.ofNat 16) ++ s.trl := by
  cases h
  case asciiMacro => exact .inr rfl
  case short r _ hr => obtain rfl | ⟨-, p, x, y, rfl, -⟩ := hr <;> exact .inl rfl
  case pair ht | pairRaise ht _ => obtain ⟨v, c, l, sh, u, -, -, rfl⟩ := ht; exact .inl rfl
  all_goals exact .inl rfl

/-- A step only appends to SEGS. -/
theorem Stepped.segs_prefix (h : Stepped s (.next t)) : s.segs <+: t.segs := by
  cases h
  case segment => exact ⟨[s.segbuf], rfl⟩
  case short r _ hr => obtain rfl | ⟨-, p, x, y, rfl, -⟩ := hr <;> exact List.prefix_refl _
  case pair ht | pairRaise ht _ => obtain ⟨v, c, l, sh, u, -, -, rfl⟩ := ht; exact List.prefix_refl _
  all_goals exact List.prefix_refl _

/-- A decoder stays under its own MODE. -/
theorem Stepped.phaseAgrees (hs : Machine.phaseAgrees s = true) (h : Stepped s (.next t)) :
    Machine.phaseAgrees t = true := by
  cases h
  case short r _ hr => obtain rfl | ⟨-, p, x, y, rfl, -⟩ := hr <;> exact hs
  case pair ht | pairRaise ht _ => obtain ⟨v, c, l, sh, u, -, -, rfl⟩ := ht; exact hs
  all_goals simp_all [Machine.phaseAgrees]

/-- A busy machine stays busy or completes and leaves ERR, or it records a cause other than `B256_LENGTH` and ends in ERROR. -/
theorem Stepped.run_cases (hb : s.run = .busy) (h : Stepped s (.next t)) :
    (t.run = .busy ∧ t.err = s.err) ∨ (t.run = .done ∧ t.err = s.err) ∨
      (t.run = .error ∧ ∃ c, c ≠ .b256Length ∧ t.err = ⟨.format, some c⟩) := by
  cases h
  case loopEnd => exact .inr (.inl ⟨rfl, rfl⟩)
  case short => exact .inr (.inr ⟨rfl, .outOfData, by decide, rfl⟩)
  case asciiRaise c _ _ hc | pairRaise c _ _ _ hc => exact .inr (.inr ⟨rfl, c, hc, rfl⟩)
  case pair ht => obtain ⟨v, c, l, sh, u, -, -, rfl⟩ := ht; exact .inl ⟨hb, rfl⟩
  all_goals exact .inl ⟨hb, rfl⟩

/-- ERR tells a Format Error exactly when RUN = ERROR, after the step as before it. -/
theorem Stepped.errorRecorded (hb : s.run = .busy) (hs : Machine.errorRecorded s = true) (h : Stepped s (.next t)) :
    Machine.errorRecorded t = true := by
  have he : s.err = .clear := by simpa [Machine.errorRecorded, hb] using hs
  obtain ⟨hr, e⟩ | ⟨hr, e⟩ | ⟨hr, c, hc, e⟩ := h.run_cases hb
  · simp [Machine.errorRecorded, hr, e, he]
  · simp [Machine.errorRecorded, hr, e, he]
  · simpa [Machine.errorRecorded, hr, e] using hc

/-- Eight bits further the position is one more. -/
theorem codewordPositionAt_add (r : Rounding) (pos k : Nat) :
    codewordPositionAt r (pos + 8 * k) = codewordPositionAt r pos + k := by
  cases r <;> simp only [codewordPositionAt] <;> omega

theorem runTracked_rawHeader_iff (hp : s.phase = .rawHeader) : runTracked s = true ↔ s.p = codewordPosition s := by
  simp [runTracked, hp]

theorem runTracked_rawData_iff (hp : s.phase = .rawData) :
    runTracked s = true ↔ s.p = codewordPosition s ∧ s.segbuf.length ≤ s.cnt := by
  simp [runTracked, hp]

/-- Inside RawBytes, P stays the position of the next byte, and SEGBUF never holds more than CNT bytes. -/
theorem Stepped.runTracked (hs : Machine.runTracked s = true) (h : Stepped s (.next t)) :
    Machine.runTracked t = true := by
  have h8 : codewordPositionAt cwposRound (s.pos + 8) = codewordPosition s + 1 := codewordPositionAt_add _ _ 1
  have h16 : codewordPositionAt cwposRound (s.pos + 16) = codewordPosition s + 2 := codewordPositionAt_add _ _ 2
  cases h
  case header1 hp _ =>
    rw [runTracked_rawHeader_iff hp] at hs
    exact (runTracked_rawData_iff rfl).mpr ⟨(congrArg (· + 1) hs).trans h8.symm, Nat.zero_le _⟩
  case header2 hp _ =>
    rw [runTracked_rawHeader_iff hp] at hs
    exact (runTracked_rawData_iff rfl).mpr ⟨(congrArg (· + 2) hs).trans h16.symm, Nat.zero_le _⟩
  case data hp _ hc =>
    rw [runTracked_rawData_iff hp] at hs
    exact (runTracked_rawData_iff (by exact hp)).mpr
      ⟨(congrArg (· + 1) hs.1).trans h8.symm, by simpa using Nat.succ_le_of_lt hc⟩
  case short r _ hr =>
    obtain rfl | ⟨-, p, x, y, rfl, ⟨⟨m, hp⟩, -⟩ | ⟨hp, rfl⟩⟩ := hr
    · exact hs
    · simp [Machine.runTracked, hp]
    · rw [runTracked_rawHeader_iff hp] at hs
      exact (runTracked_rawHeader_iff (by exact hp)).mpr ((congrArg (· + 1) hs).trans h8.symm)
  case pair hp _ ht | pairRaise hp _ ht _ => obtain ⟨v, c, l, sh, u, -, -, rfl⟩ := ht; simp [Machine.runTracked, hp]
  case intoRaw => exact (runTracked_rawHeader_iff rfl).mpr rfl
  all_goals simp [Machine.runTracked, *]

/-! ## The parts of the invariant that follow -/

theorem Stepped.cursorInside (hs : CursorInside s) (h : Stepped s (.next t)) : CursorInside t := by
  obtain ⟨-, hn, -, -⟩ := h.sameBuffer
  obtain ⟨d, hd, hle, -⟩ := h.pos_eq
  unfold CursorInside available at *
  omega

theorem Stepped.charsBounded (hs : CharsBounded s) (h : Stepped s (.next t)) : CharsBounded t := by
  have hmacro := chars_toNat_le (l := macroTrailer) (by decide)
  obtain ⟨l, htext, hl⟩ := h.text_eq
  simp only [CharsBounded, List.forall_mem_append] at hs ⊢
  refine ⟨?_, ?_⟩
  · rw [htext]
    simp only [List.forall_mem_append]
    exact ⟨hs.1, hl.elim id fun e => e ▸ hs.2⟩
  · obtain e | e := h.trl_eq <;> rw [e]
    · exact hs.2
    · simp only [List.forall_mem_append]
      exact ⟨hmacro, hs.2⟩

theorem Stepped.trailerWhole (hs : TrailerWhole s) (h : Stepped s (.next t)) : TrailerWhole t := by
  obtain e | e := h.trl_eq
  · simpa only [TrailerWhole, e] using hs
  · have hlen : t.trl.length / macroTrailer.length = s.trl.length / macroTrailer.length + 1 := by
      rw [e]
      simp only [List.length_append, List.length_map]
      exact Nat.add_div_left _ (by decide)
    rw [TrailerWhole, hlen, List.replicate_succ, List.flatten_cons, ← hs, e]

theorem Stepped.grows (h : Stepped s (.next t)) : Grows s t := by
  obtain ⟨d, hpos, -, -⟩ := h.pos_eq
  obtain ⟨l, htext, -⟩ := h.text_eq
  refine ⟨by omega, ⟨l, htext.symm⟩, ?_, h.segs_prefix⟩
  obtain e | e := h.trl_eq <;> rw [e]
  exact List.suffix_append _ _

/-- Every thing a busy machine can do keeps the invariant. -/
theorem Stepped.inv (hb : s.run = .busy) (hs : Inv s) (h : Stepped s (.next t)) : Inv t := by
  obtain ⟨hfill, hcur, hphase, hchars, htrl, herr, hrun, hsup⟩ := hs
  obtain ⟨hcw, hn, hsupplied, -⟩ := h.sameBuffer
  refine ⟨?_, h.cursorInside hcur, h.phaseAgrees hphase, h.charsBounded hchars, h.trailerWhole htrl,
    h.errorRecorded hb herr, h.runTracked hrun, fun _ => hsupplied ▸ hsup hb⟩
  rw [BufferFilled, hcw, hn]
  exact hfill

/-- Every step keeps the invariant. -/
theorem step_keeps_inv (hs : Inv s) (h : step s = .next t) : Inv t := by
  obtain ⟨-, rfl⟩ | ⟨hb, hst⟩ := step_next_cases h
  · exact hs
  · exact hst.inv hb hs

/-- A busy machine over a filled buffer does not stop: the only stop is a hole of the buffer. -/
theorem Stepped.exists_next {o : Host.Outcome State Fault Refusal} (hs : BufferFilled s) (h : Stepped s o) :
    ∃ t, o = .next t := by
  cases h
  case hole a n hn hm =>
    obtain ⟨v, hv⟩ := hs.memRead hn
    simp [hv] at hm
  all_goals exact ⟨_, rfl⟩

/-- A step over a filled buffer has a next state, whatever the status. -/
theorem exists_step_next (hs : BufferFilled s) : ∃ t, step s = .next t := by
  by_cases hb : s.run = .busy
  · exact (stepped hb).exists_next hs
  · exact ⟨s, step_of_not_busy hb⟩

/-! ## The host's two actions -/

theorem loadBuffer_filled (bs : List Byte) (s : State) : BufferFilled (loadBuffer bs s) := indices_ofBytes bs

theorem launched_inv (hf : BufferFilled s) (hs : s.supplied = true) : Inv (launched s) :=
  ⟨hf, Nat.zero_le _, rfl, by simp [CharsBounded], by simp [TrailerWhole], rfl, rfl, fun _ => hs⟩

theorem launched_capacity (s : State) : Capacity (launched s) := by
  simp [Capacity, heldChars, heldBytes, segmentCredit, pendingBytes]

/-- A launch over any buffer meets the invariant, whatever the machine was before. -/
theorem invoked_inv (bs : List Byte) (s : State) : Inv (invoked bs s) := launched_inv (loadBuffer_filled bs s) rfl

end Sys2Proof.Machine

open Sys2Proof Sys2Proof.Machine

/-- Settles O51: each part of the invariant is kept by everything a busy machine can do. -/
theorem stepKeepsTheInvariant : Obligations.StepKeepsTheInvariant :=
  fun _ _ => step_keeps_inv

/-- Settles O12: the lengths of the reads outside a Sixbit segment are 0, 8 and 16 bits. -/
theorem onlySixbitMisalignsTheCursor : Obligations.OnlySixbitMisalignsTheCursor := by
  intro s t h hphase
  obtain ⟨-, rfl⟩ | ⟨-, hst⟩ := step_next_cases h
  · rfl
  · obtain ⟨d, hpos, -, hd⟩ := hst.pos_eq
    have := hd hphase
    omega

/-- Settles O44: no step writes the buffer, and each writes the accumulators at one end. -/
theorem stepsKeepTheBufferAndOnlyGrow : Obligations.StepsKeepTheBufferAndOnlyGrow := by
  intro s t h
  obtain ⟨-, rfl⟩ | ⟨-, hst⟩ := step_next_cases h
  · exact ⟨⟨rfl, rfl, rfl, rfl⟩, fun _ => rfl, le_rfl, List.prefix_rfl, List.suffix_rfl, List.prefix_rfl⟩
  · have hsame := hst.sameBuffer
    exact ⟨hsame, fun a => by rw [hsame.1], hst.grows⟩

/-- Settles O53: the one stop a busy machine has is a hole, and the invariant says that the buffer has none. -/
theorem everyStepHasANextState : Obligations.EveryStepHasANextState :=
  fun _ ⟨hf, _⟩ => exists_step_next hf

/-- Settles O52: a launch writes every element the invariant speaks of but the buffer, and a supply writes the buffer only. -/
theorem supplyThenLaunchKeepsTheInvariant : Obligations.SupplyThenLaunchKeepsTheInvariant := by
  intro s t ⟨hfill, _, hphase, hchars, htrl, herr, hrun, _⟩
  refine ⟨fun bs _ => invoked_inv bs s, fun h => ?_, fun bs h => ?_⟩
  · obtain ⟨-, hs, rfl⟩ := launch_next_iff.mp h
    exact ⟨launched_inv hfill hs, launched_capacity s⟩
  · obtain ⟨-, -, rfl⟩ := supply_next_iff.mp h
    exact ⟨loadBuffer_filled bs s, hphase, hchars, htrl, herr, hrun, fun _ => rfl⟩

/-- Settles O50: nothing is listed, consumed, emitted or raised at power-on. -/
theorem resetMeetsTheInvariant : Obligations.ResetMeetsTheInvariant :=
  ⟨⟨rfl, Nat.zero_le _, rfl, by simp [CharsBounded, State.reset], rfl, rfl, rfl, by simp [State.reset]⟩, by decide⟩

end

section
/-! PROOFS. Every invocation ends: each step of a busy machine brings the end nearer (10_state.md R37; 70_reset_and_hazards.md R383). -/

namespace Sys2Proof.Machine

variable {s t : State}

/-- A bound on the bookkeeping steps before the next read: the loop enters a decoder, one of another mode than ASCII may return to ASCII
first, and with no bit left the loop ends. -/
def stepsBeforeRead (s : State) : Nat :=
  match s.phase with
  | .loop => if available s = 0 then 0 else if s.mode = .ascii then 2 else 4
  | .ascii => 1
  | .triple _ => 3
  | .sixbit _ => 3
  | .rawHeader => 3
  | .rawData => 3

/-- What is left to do: the bits, and the bookkeeping before the next read. Every read takes six bits or more, so it pays for any
bookkeeping after it. -/
def remaining (s : State) : Nat := available s + stepsBeforeRead s

theorem stepsBeforeRead_le (s : State) : stepsBeforeRead s ≤ 4 := by
  unfold stepsBeforeRead
  split <;> (try split_ifs) <;> omega

theorem stepsBeforeRead_returnTo_ascii (s : State) : stepsBeforeRead (s.returnTo .ascii) ≤ 2 := by
  simp only [stepsBeforeRead, State.returnTo_phase, State.returnTo_mode]
  split_ifs <;> omega

theorem tripleMode_ne_ascii (m : TripleMode) : m.mode ≠ .ascii := by cases m <;> decide

theorem remaining_lt_of_read {d : Nat} (h6 : 6 ≤ d) (hd : d ≤ available s) (hn : t.n = s.n) (hp : t.pos = s.pos + d) :
    remaining t < remaining s := by
  have := stepsBeforeRead_le t
  unfold remaining available at *
  omega

theorem remaining_lt_of_bookkeeping (hn : t.n = s.n) (hp : t.pos = s.pos) (h : stepsBeforeRead t < stepsBeforeRead s) :
    remaining t < remaining s := by
  simpa [remaining, available, hn, hp] using h

/-- The loop enters a decoder; one step more is left for a return from another decoder than ASCII. -/
theorem remaining_lt_of_entry (hp : s.phase = .loop) (ha : 0 < available s) (hn : t.n = s.n) (hpos : t.pos = s.pos)
    (h : stepsBeforeRead t < if s.mode = .ascii then 2 else 4) : remaining t < remaining s :=
  remaining_lt_of_bookkeeping hn hpos (by simpa only [stepsBeforeRead, hp, ha.ne', if_false] using h)

/-- A decoder other than ASCII returns to the loop, in ASCII. -/
theorem remaining_lt_of_return (hn : t.n = s.n) (hp : t.pos = s.pos) (h : stepsBeforeRead s = 3) :
    remaining (t.returnTo .ascii) < remaining s :=
  remaining_lt_of_bookkeeping hn hp (h ▸ Nat.lt_succ_of_le (stepsBeforeRead_returnTo_ascii t))

/-- A busy machine ends, or goes on with less to do. -/
theorem Stepped.finished_or_remaining_lt (hb : s.run = .busy) (h : Stepped s (.next t)) :
    Finished t ∨ (t.run = .busy ∧ remaining t < remaining s) := by
  cases h
  case loopEnd => exact .inl (.inl rfl)
  case short | asciiRaise | pairRaise => exact .inl (.inr rfl)
  case intoAscii hp ha hm | intoSixbit hp ha hm | intoRaw hp ha hm =>
    exact .inr ⟨hb, remaining_lt_of_entry hp ha rfl rfl (by simp [stepsBeforeRead, hm])⟩
  case intoTriple m hp ha hm =>
    exact .inr ⟨hb, remaining_lt_of_entry hp ha rfl rfl (by simp [stepsBeforeRead, hm, tripleMode_ne_ascii])⟩
  case leaveAscii hp h0 =>
    have h0' : available (s.returnTo .ascii) = 0 := h0
    exact .inr ⟨hb, remaining_lt_of_bookkeeping rfl rfl (by simp [stepsBeforeRead, hp, h0'])⟩
  case leaveTriple hp _ | leaveSixbit hp _ | segment hp _ =>
    exact .inr ⟨hb, remaining_lt_of_return rfl rfl (by simp [stepsBeforeRead, hp])⟩
  case pair h16 ht =>
    obtain ⟨v, c, l, sh, u, -, -, rfl⟩ := ht
    exact .inr ⟨hb, remaining_lt_of_read (by decide) h16 rfl rfl⟩
  case unlatch h8 => exact .inr ⟨hb, remaining_lt_of_read (by decide) h8.le rfl rfl⟩
  all_goals exact .inr ⟨hb, remaining_lt_of_read (by decide) ‹_ ≤ available s› rfl rfl⟩

/-- A busy machine that meets the invariant ends within any number of steps above what is left to do. -/
theorem exists_finished_of_remaining_lt {m : Nat} (hs : Inv s) (hb : s.run = .busy) (hm : remaining s < m) :
    ∃ k t, k ≤ m ∧ steps k s = .next t ∧ Finished t := by
  induction m generalizing s with
  | zero => omega
  | succ m ih =>
    obtain ⟨t, ht⟩ := exists_step_next hs.1
    obtain hfin | ⟨hbt, hlt⟩ := (ht ▸ stepped hb : Stepped s (.next t)).finished_or_remaining_lt hb
    · exact ⟨1, t, by omega, steps_succ_of_next ht, hfin⟩
    · obtain ⟨k, u, hk, hsteps, hfin⟩ := ih (step_keeps_inv hs ht) hbt (by omega)
      exact ⟨k + 1, u, by omega, (steps_succ_of_next ht).trans hsteps, hfin⟩

/-- A launched machine has its 8N bits and the entry of a decoder before it. -/
theorem remaining_invoked_lt (bs : List Byte) (s : State) : remaining (invoked bs s) < 8 * bs.length + 5 :=
  Nat.add_lt_add_left (Nat.lt_succ_of_le (stepsBeforeRead_le _)) _

end Sys2Proof.Machine

open Sys2Proof Sys2Proof.Machine

/-- Settles O56, by the measure `remaining`: each step of a busy machine ends the invocation or lowers it. -/
theorem everyInvocationEnds : Obligations.EveryInvocationEnds :=
  fun bs s => exists_finished_of_remaining_lt (invoked_inv bs s) rfl (remaining_invoked_lt bs s)

end

section
/-! PROOFS. What the host observes depends on the buffer alone (10_state.md R34; 70_reset_and_hazards.md R381, R384): two machines that differ
in their working registers only, and agree on CNT and SEGBUF inside a RawBytes run, do so after every step. -/

namespace Sys2Proof.Machine

variable {s t : State}

/-! ## Agreement outside the working registers -/

/-- Contents of the working registers (10_state.md R26), which a launch leaves as they are (70_reset_and_hazards.md R381). -/
structure Working where
  b1 : Byte
  b2 : Byte
  v : BitVec 16
  c : Triple
  e : Val
  d1 : Byte
  d2 : Byte
  cnt : Nat
  p : Nat
  segbuf : List Byte

/-- The state with other contents of the working registers. -/
def State.withWorking (s : State) (w : Working) : State :=
  { s with
    b1 := w.b1, b2 := w.b2, v := w.v, c := w.c, e := w.e, d1 := w.d1, d2 := w.d2, cnt := w.cnt, p := w.p
    segbuf := w.segbuf }

/-- The two states differ in the working registers only, and inside a RawBytes run not in CNT and SEGBUF. (P is fixed there by the
invariant, `runTracked`.) -/
def Agree (s t : State) : Prop :=
  ∃ w : Working, t = s.withWorking w ∧ (s.phase = .rawData → w.cnt = s.cnt ∧ w.segbuf = s.segbuf)

/-- The two outcomes, where they are next states, agree. -/
def OutcomesAgree (o o' : Host.Outcome State Fault Refusal) : Prop := ∀ u u', o = .next u → o' = .next u' → Agree u u'

/-- Two procedures return related values, or raise one cause in states that agree, or stop for one reason. -/
inductive Alike {α : Type} (R : α → α → Prop) : Except Stop α → Except Stop α → Prop where
  | ok {a b : α} (h : R a b) : Alike R (.ok a) (.ok b)
  | raised (c : Cause) {s t : State} (h : Agree s t) : Alike R (.error (.raised c s)) (.error (.raised c t))
  | faulted (f : Fault) : Alike R (.error (.faulted f)) (.error (.faulted f))

theorem Alike.bind {α β : Type} {R : α → α → Prop} {S : β → β → Prop} {p q : Except Stop α} {f g : α → Except Stop β}
    (h : Alike R p q) (hfg : ∀ a b, R a b → Alike S (f a) (g b)) : Alike S (p >>= f) (q >>= g) := by
  cases h with
  | ok h => exact hfg _ _ h
  | raised c h => exact .raised c h
  | faulted f => exact .faulted f

theorem Agree.outcomes (h : Agree s t) : OutcomesAgree (.next s) (.next t) := by
  rintro _ _ ⟨⟩ ⟨⟩
  exact h

/-! ## What agreeing states share -/

theorem Agree.shift_eq (h : Agree s t) : t.shift = s.shift := by
  obtain ⟨w, rfl, -⟩ := h
  rfl

theorem Agree.phase_eq (h : Agree s t) : t.phase = s.phase := by
  obtain ⟨w, rfl, -⟩ := h
  rfl

theorem Agree.run_eq (h : Agree s t) : t.run = s.run := by
  obtain ⟨w, rfl, -⟩ := h
  rfl

theorem Agree.available_eq (h : Agree s t) : available t = available s := by
  obtain ⟨w, rfl, -⟩ := h
  rfl

theorem Agree.codewordPosition_eq (h : Agree s t) : codewordPosition t = codewordPosition s := by
  obtain ⟨w, rfl, -⟩ := h
  rfl

theorem Agree.observe_eq (h : Agree s t) : observe s = observe t := by
  obtain ⟨w, rfl, -⟩ := h
  rfl

/-! ## The operations keep the agreement -/

theorem Agree.abort (h : Agree s t) (c : Cause) : Agree (s.abort c) (t.abort c) := by
  obtain ⟨w, rfl, hd⟩ := h
  exact ⟨w, rfl, hd⟩

theorem Agree.returnTo (h : Agree s t) (m : Mode) : Agree (s.returnTo m) (t.returnTo m) := by
  obtain ⟨w, rfl, -⟩ := h
  exact ⟨w, rfl, nofun⟩

theorem Agree.emit (h : Agree s t) (x : Nat) : Agree (emit x s) (emit x t) := by
  obtain ⟨w, rfl, hd⟩ := h
  exact ⟨w, rfl, hd⟩

theorem Agree.emitAll (h : Agree s t) (l : List Nat) : Agree (emitAll l s) (emitAll l t) := by
  obtain ⟨w, rfl, hd⟩ := h
  exact ⟨w, rfl, hd⟩

theorem Agree.prependTrailer (h : Agree s t) (l : List Nat) : Agree (prependTrailer l s) (prependTrailer l t) := by
  obtain ⟨w, rfl, hd⟩ := h
  exact ⟨w, rfl, hd⟩

theorem Agree.setUpperShift (h : Agree s t) : Agree (setUpperShift s) (setUpperShift t) := by
  obtain ⟨w, rfl, hd⟩ := h
  exact ⟨w, rfl, hd⟩

theorem Agree.setShift (h : Agree s t) (c : Nat) : Agree (setShift c s) (setShift c t) := by
  obtain ⟨w, rfl, hd⟩ := h
  exact ⟨w, rfl, hd⟩

theorem Agree.clearShift (h : Agree s t) : Agree (clearShift s) (clearShift t) := by
  obtain ⟨w, rfl, hd⟩ := h
  exact ⟨w, rfl, hd⟩

theorem Agree.emitShifted (h : Agree s t) (x : Nat) : Agree (emitShifted x s) (emitShifted x t) := by
  obtain ⟨w, rfl, hd⟩ := h
  refine ⟨w, ?_, by simpa using hd⟩
  unfold Machine.emitShifted
  cases hu : s.ush <;> simp [State.withWorking, Machine.emit, hu]

theorem Agree.nextPlace (h : Agree s t) : Agree (nextPlace s) (nextPlace t) := by
  obtain ⟨w, rfl, hd⟩ := h
  refine ⟨w, ?_, ?_⟩
  · unfold Machine.nextPlace
    simp only [State.withWorking]
    split <;> rfl
  · cases hp : s.phase <;> simp_all [Machine.nextPlace]

theorem Agree.fetchLoop (h : Agree s t) (hp : s.phase = .loop) : Agree (fetchLoop s) (fetchLoop t) := by
  obtain ⟨w, rfl, -⟩ := h
  have ha : available (s.withWorking w) = available s := rfl
  have hm : (s.withWorking w).mode = s.mode := rfl
  unfold Machine.fetchLoop
  rw [ha, hm]
  split
  · exact ⟨w, rfl, by simp [hp]⟩
  · cases s.mode
    case b256 => exact ⟨{ w with p := codewordPosition s }, rfl, nofun⟩
    case pad => exact ⟨w, rfl, by simp [hp]⟩
    all_goals exact ⟨w, rfl, nofun⟩

/-! ## The values of the triple modes -/

theorem emitResolved_alike (h : Agree s t) (x : Nat) : Alike Agree (emitResolved x s) (emitResolved x t) :=
  .ok (h.emitShifted x).clearShift

theorem emitFromTable_alike (h : Agree s t) (table : List Nat) (miss : Cause) (c : Nat) :
    Alike Agree (emitFromTable table miss c s) (emitFromTable table miss c t) := by
  unfold emitFromTable tableChar
  cases table[c]? with
  | none => exact .raised miss h
  | some ch => exact emitResolved_alike h ch

theorem interpC40_alike (h : Agree s t) (c : Val) : Alike Agree (interpC40 c s) (interpC40 c t) := by
  unfold interpC40
  rw [h.shift_eq]
  cases s.shift with
  | s0 =>
    dsimp only
    split_ifs
    · exact .ok (h.setShift _)
    · exact .ok (h.emitShifted _)
    · exact .raised _ h
  | s1 => exact emitResolved_alike h _
  | s2 =>
    dsimp only
    split_ifs
    · exact emitFromTable_alike h _ _ _
    · exact .ok (h.emit _).clearShift
    · exact .ok h.setUpperShift.clearShift
    · exact .raised _ h
  | s3 => exact emitResolved_alike h _

/-- The two modes differ in their basic set and in shift set 3 only (30_encoding.md R97 to R100). -/
theorem interpText_eq_interpC40 (c : Val) (h : s.shift = .s1 ∨ s.shift = .s2) : interpText c s = interpC40 c s := by
  unfold interpText interpC40
  obtain h | h := h <;> rw [h] <;> rfl

theorem interpText_alike (h : Agree s t) (c : Val) : Alike Agree (interpText c s) (interpText c t) := by
  by_cases h12 : s.shift = .s1 ∨ s.shift = .s2
  · rw [interpText_eq_interpC40 c h12, interpText_eq_interpC40 c (h.shift_eq ▸ h12)]
    exact interpC40_alike h c
  unfold interpText
  rw [h.shift_eq]
  cases hsh : s.shift with
  | s0 =>
    dsimp only
    split_ifs
    · exact .ok (h.setShift _)
    · exact .ok (h.emitShifted _)
    · exact .raised _ h
  | s1 => exact absurd (.inl hsh) h12
  | s2 => exact absurd (.inr hsh) h12
  | s3 =>
    dsimp only
    split_ifs
    · exact emitFromTable_alike h _ _ _
    · exact .raised _ h

theorem interpX12_alike (h : Agree s t) (c : Val) : Alike Agree (interpX12 c s) (interpX12 c t) := by
  unfold interpX12
  iterate 6
    split
    · exact .ok (h.emit _)
  exact .raised _ h

/-- Where a value's procedure starts with the triple in C[], it returns with the triple in C[]. -/
theorem Alike.and_c_eq {p q : Proc} {k : Nat} {tr : Triple} (h : Alike Agree p q) (hp : Yields (Shows k s) p)
    (hq : Yields (Shows k t) q) (hs : s.c = tr) (ht : t.c = tr) :
    Alike (fun u u' => Agree u u' ∧ u.c = tr ∧ u'.c = tr) p q := by
  cases h with
  | ok h => exact .ok ⟨h, (Shows.c_eq hp).trans hs, (Shows.c_eq hq).trans ht⟩
  | raised c h => exact .raised c h
  | faulted f => exact .faulted f

/-- A pair takes its values from its bytes, not from what C[] held. -/
theorem runPair_alike {interp : Val → State → Proc} (hi : ∀ c s t, Agree s t → Alike Agree (interp c s) (interp c t))
    (hshow : ∀ (c : Val) (s : State), c.toNat ≤ 40 → Yields (Shows 1 s) (interp c s)) (h : Agree s t) (b1 b2 : Byte) :
    Alike Agree (runPair interp b1 b2 s) (runPair interp b1 b2 t) := by
  unfold runPair loadTriple
  cases hu : unpack3 b1 b2 with
  | none => exact .raised _ h
  | some tr =>
    obtain ⟨h1, h2, h3⟩ := unpack3_le hu
    obtain ⟨w, rfl, hd⟩ := h
    have h0 : Agree { s with v := BitVec.ofNat 16 (pairWord b1 b2 - 1), c := tr }
        { s.withWorking w with v := BitVec.ofNat 16 (pairWord b1 b2 - 1), c := tr } :=
      ⟨{ w with v := BitVec.ofNat 16 (pairWord b1 b2 - 1), c := tr }, rfl, hd⟩
    have hstep : ∀ (c : Val), c.toNat ≤ 40 → ∀ s t, Agree s t ∧ s.c = tr ∧ t.c = tr →
        Alike (fun u u' => Agree u u' ∧ u.c = tr ∧ u'.c = tr) (interp c s) (interp c t) :=
      fun c hc s t ⟨h, hs, ht⟩ => (hi c s t h).and_c_eq (hshow c s hc) (hshow c t hc) hs ht
    refine (hstep tr.c1 h1 _ _ ⟨h0, rfl, rfl⟩).bind fun s1 t1 hs1 => ?_
    rw [hs1.2.1, hs1.2.2]
    refine (hstep tr.c2 (by omega) _ _ hs1).bind fun s2 t2 hs2 => ?_
    rw [hs2.2.1, hs2.2.2]
    exact hi tr.c3 s2 t2 hs2.1

/-! ## The units -/

theorem Alike.settle {p q : Proc} (h : Alike Agree p q) : OutcomesAgree (settle p) (settle q) := by
  cases h with
  | ok h => exact h.outcomes
  | raised c h => exact (h.abort c).outcomes
  | faulted f => rintro u u' ⟨⟩

theorem exec_ascii_agree {i : Instr} (hi : i.ctx = .ascii) (h : Agree s t) : OutcomesAgree (exec i s) (exec i t) := by
  cases i
  case aInv0 | aInv242 | aInv255 => exact (h.abort _).outcomes
  case aLit ch => exact (h.emitShifted _).outcomes
  case aDig2 dd => exact (h.emitAll _).outcomes
  case aFnc1 => exact (h.emit _).outcomes
  case aUsh => exact h.setUpperShift.outcomes
  case aM05 | aM06 => exact ((h.emitAll _).prependTrailer _).outcomes
  case aSapp | aRdrp | aEci => exact h.outcomes
  case aPad | aLc40 | aLb256 | aLx12 | aLtxt | aLedf => exact (h.returnTo _).outcomes
  case aEnd254 =>
    simp only [exec, execAEnd254, h.available_eq]
    split
    · exact h.outcomes
    · exact (h.abort _).outcomes
  all_goals cases hi

theorem exec_pair_agree (m : TripleMode) (b1 b2 : Byte) (h : Agree s t) :
    OutcomesAgree (exec (pairUnit m b1 b2) s) (exec (pairUnit m b1 b2) t) := by
  cases m with
  | c40 => exact (runPair_alike (fun c _ _ h => interpC40_alike h c) (fun _ s hc => interpC40_shows hc s) h b1 b2).settle
  | text => exact (runPair_alike (fun c _ _ h => interpText_alike h c) (fun _ s hc => interpText_shows hc s) h b1 b2).settle
  | x12 => exact (runPair_alike (fun c _ _ h => interpX12_alike h c) (fun _ s hc => interpX12_shows hc s) h b1 b2).settle

theorem exec_sixbit_agree (e : Nat) (h : Agree s t) :
    OutcomesAgree (exec (decodeSixbit e) s) (exec (decodeSixbit e) t) := by
  unfold decodeSixbit
  split_ifs
  · exact (h.returnTo _).outcomes
  · exact (h.emit _).nextPlace.outcomes
  · exact (h.emit _).nextPlace.outcomes

/-- The length test and the start of a run, which give CNT and SEGBUF their values. -/
theorem startRun_alike (len : Int) (h : Agree s t) : Alike Agree (startRun len s) (startRun len t) := by
  unfold startRun
  split
  · exact .raised _ h
  · obtain ⟨w, rfl, -⟩ := h
    exact .ok ⟨{ w with cnt := len.toNat, segbuf := [] }, rfl, fun _ => ⟨rfl, rfl⟩⟩

theorem exec_header_agree (d1 : Nat) (h : Agree s t) :
    OutcomesAgree (exec (decodeHeader d1) s) (exec (decodeHeader d1) t) := by
  unfold decodeHeader
  split
  · simp only [exec, execBLen0, h.available_eq]
    exact (startRun_alike _ h).settle
  · exact (startRun_alike ((BitVec.ofNat 8 d1).toNat : Int) h).settle

theorem exec_bLen2_agree (d1 d2 : Byte) (h : Agree s t) : OutcomesAgree (exec (.bLen2 d1 d2) s) (exec (.bLen2 d1 d2) t) :=
  (startRun_alike _ h).settle

theorem exec_bData_agree (b : Byte) (h : Agree s t) : OutcomesAgree (exec (.bData b) s) (exec (.bData b) t) := by
  obtain ⟨w, rfl, hd⟩ := h
  refine Agree.outcomes ⟨{ w with segbuf := w.segbuf ++ [b] }, rfl, fun hp => ?_⟩
  obtain ⟨hcnt, hseg⟩ := hd hp
  exact ⟨hcnt, congrArg (· ++ [b]) hseg⟩

/-! ## The reads and the fetches -/

/-- What is written to a working register outside the counted run does not matter. -/
theorem Agree.write (h : Agree s t) {b1 b2 d1 d2 b1' b2' d1' d2' : Byte} {e e' : Val} {p p' : Nat} :
    Agree { s with b1 := b1, b2 := b2, e := e, d1 := d1, d2 := d2, p := p }
      { t with b1 := b1', b2 := b2', e := e', d1 := d1', d2 := d2', p := p' } := by
  obtain ⟨w, rfl, hd⟩ := h
  exact ⟨{ w with b1 := b1', b2 := b2', e := e', d1 := d1', d2 := d2', p := p' }, rfl, hd⟩

theorem readBits_alike (n : Nat) (h : Agree s t) :
    Alike (fun a b => ∃ x u u', a = (x, u) ∧ b = (x, u') ∧ x < 2 ^ n ∧ Agree u u' ∧ (t.p = s.p → u'.p = u.p))
      (readBits n s) (readBits n t) := by
  have ha := h.available_eq
  obtain ⟨w, rfl, hd⟩ := h
  have hm : memRead (s.withWorking w).cw (s.withWorking w).pos n = memRead s.cw s.pos n := rfl
  unfold readBits
  rw [ha, hm]
  split
  · exact .raised _ ⟨w, rfl, hd⟩
  · cases hv : memRead s.cw s.pos n with
    | none => exact .faulted _
    | some v => exact .ok ⟨v, _, _, rfl, rfl, memRead_lt hv, ⟨w, rfl, hd⟩, id⟩

theorem readRaw_alike (h : Agree s t) (hp : t.p = s.p) :
    Alike (fun a b => ∃ x u u', a = (x, u) ∧ b = (x, u') ∧ Agree u u' ∧ u'.p = u.p) (readRaw s) (readRaw t) := by
  unfold readRaw
  refine (readBits_alike 8 h).bind ?_
  rintro _ _ ⟨x, u, u', rfl, rfl, -, hu, hp'⟩
  exact .ok ⟨_, _, _, rfl, by rw [hp' hp], hu.write, rfl⟩

/-- What the two fetches found does the same on both sides. -/
def RunsAgree (f g : Fetched) : Prop := OutcomesAgree f.run g.run

theorem fetchAscii_alike (h : Agree s t) : Alike RunsAgree (fetchAscii s) (fetchAscii t) := by
  unfold fetchAscii
  rw [h.available_eq]
  split
  · exact .ok (h.returnTo _).outcomes
  · refine (readBits_alike 8 h).bind ?_
    rintro _ _ ⟨cw, u, u', rfl, rfl, hcw, hu, -⟩
    simp only [decoded, decode_ascii hcw]
    exact .ok (exec_ascii_agree (decodeAscii_ctx cw) hu.write)

theorem fetchTriple_alike (m : TripleMode) (h : Agree s t) : Alike RunsAgree (fetchTriple m s) (fetchTriple m t) := by
  unfold fetchTriple
  rw [h.available_eq]
  split
  · exact .ok (h.returnTo _).outcomes
  split
  · exact .ok (h.returnTo _).outcomes
  refine (readBits_alike 8 h).bind ?_
  rintro _ _ ⟨x1, u, u', rfl, rfl, hx1, hu, -⟩
  dsimp only
  split
  · subst x1
    simp only [decoded, decode_unlatch]
    refine .ok ?_
    simp only [RunsAgree, Fetched.run, exec_unlatchUnit]
    exact (hu.write.returnTo _).outcomes
  · refine (readBits_alike 8 hu.write).bind ?_
    rintro _ _ ⟨x2, v, v', rfl, rfl, hx2, hv, -⟩
    have hd := decode_pair m (b1 := BitVec.ofNat 8 x1) (b2 := BitVec.ofNat 8 x2) (by rwa [toNat_ofNat8 hx1])
    simp only [pairWord, toNat_ofNat8 hx1, toNat_ofNat8 hx2] at hd
    simp only [decoded, hd]
    exact .ok (exec_pair_agree m _ _ hv.write)

theorem fetchSixbit_alike (k : Fin 4) (h : Agree s t) : Alike RunsAgree (fetchSixbit k s) (fetchSixbit k t) := by
  unfold fetchSixbit
  rw [h.available_eq]
  split
  · exact .ok (h.returnTo _).outcomes
  · refine (readBits_alike 6 h).bind ?_
    rintro _ _ ⟨e, u, u', rfl, rfl, he, hu, -⟩
    simp only [decoded, decode_sixbit he]
    exact .ok (exec_sixbit_agree e hu.write)

theorem fetchHeader_alike (h : Agree s t) (hp : t.p = s.p) : Alike RunsAgree (fetchHeader s) (fetchHeader t) := by
  unfold fetchHeader
  refine (readRaw_alike h hp).bind ?_
  rintro _ _ ⟨d1, u, u', rfl, rfl, hu, hpu⟩
  dsimp only
  split
  case isTrue hd =>
    simp only [decoded, decode_header1 hd]
    exact .ok (exec_header_agree _ hu.write)
  case isFalse hd =>
    have hu1 : Agree { u with d1 := d1 } { u' with d1 := d1 } := hu.write
    refine (readRaw_alike hu1 hpu).bind ?_
    rintro _ _ ⟨d2, v, v', rfl, rfl, hv, -⟩
    simp only [decoded, decode_header2 (not_lt.mp hd)]
    exact .ok (exec_bLen2_agree d1 d2 hv.write)

theorem fetchData_alike (h : Agree s t) (hphase : s.phase = .rawData) (hp : t.p = s.p) :
    Alike RunsAgree (fetchData s) (fetchData t) := by
  have hstop : Agree ((appendSegment s).returnTo .ascii) ((appendSegment t).returnTo .ascii) := by
    obtain ⟨w, rfl, hd⟩ := h
    exact ⟨w, by simp [State.returnTo, appendSegment, State.withWorking, (hd hphase).2], nofun⟩
  have hcnt : t.cnt = s.cnt ∧ t.segbuf = s.segbuf := by
    obtain ⟨w, rfl, hd⟩ := h
    exact hd hphase
  unfold fetchData
  rw [hcnt.1, hcnt.2, h.available_eq]
  split
  · exact .ok hstop.outcomes
  split
  · exact .raised _ h
  · refine (readRaw_alike h hp).bind ?_
    rintro _ _ ⟨b, u, u', rfl, rfl, hu, -⟩
    simp only [decoded, decode_data]
    exact .ok (exec_bData_agree b hu)

/-! ## Steps -/

/-- Under the invariant P is the same inside RawBytes: it is the position of the next byte. -/
theorem Agree.p_eq (h : Agree s t) (hs : Inv s) (ht : Inv t) (hp : s.phase = .rawHeader ∨ s.phase = .rawData) :
    t.p = s.p := by
  obtain ⟨-, -, -, -, -, -, hs, -⟩ := hs
  obtain ⟨-, -, -, -, -, -, ht, -⟩ := ht
  have hpt := h.phase_eq
  have hpos := h.codewordPosition_eq
  obtain hp | hp := hp <;> rw [hp] at hpt
  · rw [(runTracked_rawHeader_iff hp).mp hs, (runTracked_rawHeader_iff hpt).mp ht, hpos]
  · rw [((runTracked_rawData_iff hp).mp hs).1, ((runTracked_rawData_iff hpt).mp ht).1, hpos]

theorem fetch_alike (h : Agree s t) (hs : Inv s) (ht : Inv t) : Alike RunsAgree (fetch s) (fetch t) := by
  have hpt := h.phase_eq
  cases hp : s.phase with
  | loop => rw [fetch_loop hp, fetch_loop (hpt.trans hp)]; exact .ok (h.fetchLoop hp).outcomes
  | ascii => rw [fetch_ascii hp, fetch_ascii (hpt.trans hp)]; exact fetchAscii_alike h
  | triple m => rw [fetch_triple hp, fetch_triple (hpt.trans hp)]; exact fetchTriple_alike m h
  | sixbit k => rw [fetch_sixbit hp, fetch_sixbit (hpt.trans hp)]; exact fetchSixbit_alike k h
  | rawHeader =>
    rw [fetch_rawHeader hp, fetch_rawHeader (hpt.trans hp)]
    exact fetchHeader_alike h (h.p_eq hs ht (.inl hp))
  | rawData =>
    rw [fetch_rawData hp, fetch_rawData (hpt.trans hp)]
    exact fetchData_alike h hp (h.p_eq hs ht (.inr hp))

theorem step_agree (h : Agree s t) (hs : Inv s) (ht : Inv t) : OutcomesAgree (step s) (step t) := by
  by_cases hb : s.run = .busy
  · rw [step_of_busy hb, step_of_busy (h.run_eq.trans hb)]
    have hf := fetch_alike h hs ht
    unfold stepBusy
    generalize fetch s = f, fetch t = g at hf ⊢
    cases hf with
    | ok hf => exact hf
    | raised c h => exact (h.abort c).outcomes
    | faulted f => rintro u u' ⟨⟩
  · rw [step_of_not_busy hb, step_of_not_busy (h.run_eq ▸ hb)]
    exact h.outcomes

/-- Two machines that agree and meet the invariant have next states that agree after any number of steps. -/
theorem steps_agree (k : Nat) (h : Agree s t) (hs : Inv s) (ht : Inv t) :
    ∃ u v, steps k s = .next u ∧ steps k t = .next v ∧ Agree u v := by
  induction k generalizing s t with
  | zero => exact ⟨s, t, rfl, rfl, h⟩
  | succ k ih =>
    obtain ⟨s', hs'⟩ := exists_step_next hs.1
    obtain ⟨t', ht'⟩ := exists_step_next ht.1
    rw [steps_succ_of_next hs', steps_succ_of_next ht']
    exact ih (step_agree h hs ht s' t' hs' ht') (step_keeps_inv hs hs') (step_keeps_inv ht ht')

/-! ## Launches -/

theorem structuredAppend_eq (a b : StructuredAppend) : a = b := by cases a; cases b; rfl

/-- A launch over a buffer leaves nothing of the earlier state but the working registers. -/
theorem invoked_agree (bs : List Byte) (s t : State) : Agree (invoked bs s) (invoked bs t) := by
  refine ⟨⟨t.b1, t.b2, t.v, t.c, t.e, t.d1, t.d2, t.cnt, t.p, t.segbuf⟩, ?_, nofun⟩
  simp [invoked, launched, loadBuffer, State.withWorking, structuredAppend_eq t.sa s.sa]

end Sys2Proof.Machine

open Sys2Proof Sys2Proof.Machine

/-- Settles O57: the two launched machines agree outside the working registers, and every step keeps that. -/
theorem observationDependsOnlyOnTheBuffer : Obligations.ObservationDependsOnlyOnTheBuffer := by
  intro bs s1 s2 k
  obtain ⟨t1, t2, h1, h2, hagree⟩ := steps_agree k (invoked_agree bs s1 s2) (invoked_inv bs s1) (invoked_inv bs s2)
  exact ⟨t1, t2, h1, h2, hagree.observe_eq⟩

end

section
/-! PROOFS. The family 20_memory.md: the bit view of the buffer (R61), and the bounds on the accumulators (R73), which hold because every step
pays for what it appends with the bits it reads. -/

namespace Sys2Proof.Machine

variable {s t : State}

/-! ## The bit view (R61) -/

/-- A read is the sum of its bits, each with its place value. -/
theorem memRead_eq_sum {m : Memory} {f : Nat → Byte} {a n : Nat}
    (h : ∀ k < n, m.read ((a + k) / 8) = some (f ((a + k) / 8))) :
    memRead m a n =
      some (∑ k ∈ Finset.range n, ((f ((a + k) / 8)).getLsbD (7 - (a + k) % 8)).toNat * 2 ^ (n - 1 - k)) := by
  induction n with
  | zero => rfl
  | succ n ih =>
    have hdouble : ∀ k ∈ Finset.range n, ∀ b : Nat, 2 * (b * 2 ^ (n - 1 - k)) = b * 2 ^ (n + 1 - 1 - k) := by
      intro k hk b
      have hk := Finset.mem_range.mp hk
      rw [show n + 1 - 1 - k = n - 1 - k + 1 by omega, pow_succ']
      exact Nat.mul_left_comm ..
    rw [memRead_succ (ih fun k hk => h k (by omega)) (h n n.lt_succ_self), Finset.sum_range_succ, Finset.mul_sum,
      Finset.sum_congr rfl fun k hk => hdouble k hk _]
    simp

/-- A read returns the number whose bits, most significant first, are the stream's. -/
theorem memRead_eq_of_testBit {m : Memory} {a n v : Nat} (hv : v < 2 ^ n)
    (h : ∀ k < n, streamBit m (a + k) = some (v.testBit (n - 1 - k))) : memRead m a n = some v := by
  induction n generalizing v with
  | zero => rw [memRead, Nat.lt_one_iff.mp hv]
  | succ n ih =>
    have hhigh : memRead m a n = some (v >>> 1) := by
      refine ih (by rw [Nat.shiftRight_one]; omega) fun k hk => ?_
      rw [h k (by omega), Nat.testBit_shiftRight, show n + 1 - 1 - k = 1 + (n - 1 - k) by omega]
    have hlow : streamBit m (a + n) = some (v.testBit 0) := by simpa using h n n.lt_succ_self
    rw [memRead, hhigh, hlow]
    exact congrArg some ((Nat.bit_val ..).symm.trans (Nat.bit_testBit_zero_shiftRight_one v))

/-- Bit `k` of the stream inside byte `i` (00_scope.md R7). -/
theorem streamBit_of_read {m : Memory} {i k : Nat} {x : Byte} (hx : m.read i = some x) (hk : k < 8) :
    streamBit m (8 * i + k) = some (x.getLsbD (7 - k)) := by
  rw [streamBit, show (8 * i + k) / 8 = i by omega, show (8 * i + k) % 8 = k by omega, hx]
  rfl

theorem memRead_byte {m : Memory} {i : Nat} {x : Byte} (hx : m.read i = some x) :
    memRead m (8 * i) 8 = some x.toNat :=
  memRead_eq_of_testBit x.isLt fun _ hk => streamBit_of_read hx hk

/-- Of the eight bits from offset `j` of byte `x` on, the first come from `x` and the others from the byte `y` after it. -/
theorem getLsbD_tail_or_head (x y : Byte) {j k : Nat} (hj : j < 8) (hk : k < 8) :
    ((x <<< j) ||| (y >>> (8 - j))).getLsbD (7 - k) =
      if j + k < 8 then x.getLsbD (7 - (j + k)) else y.getLsbD (7 - (j + k - 8)) := by
  simp only [BitVec.getLsbD_or, BitVec.getLsbD_shiftLeft, BitVec.getLsbD_ushiftRight]
  split
  · have hx : ¬ 7 - k < j := by omega
    have hy : y.getLsbD (8 - j + (7 - k)) = false := BitVec.getLsbD_of_ge y _ (by omega)
    simp [hx, hy, show 7 - k < 8 by omega, show 7 - k - j = 7 - (j + k) by omega]
  · have hx : 7 - k < j := by omega
    simp [hx, show 8 - j + (7 - k) = 7 - (j + k - 8) by omega]

theorem memRead_byte_offset {m : Memory} {i j : Nat} {x y : Byte} (hj : j < 8) (hx : m.read i = some x)
    (hy : m.read (i + 1) = some y) :
    memRead m (8 * i + j) 8 = some ((x <<< j) ||| (y >>> (8 - j))).toNat := by
  refine memRead_eq_of_testBit (BitVec.isLt _) fun k hk => ?_
  refine Eq.trans ?_ (congrArg some (getLsbD_tail_or_head x y hj hk)).symm
  split
  · rw [Nat.add_assoc, streamBit_of_read hx ‹_›]
  · rw [show 8 * i + j + k = 8 * (i + 1) + (j + k - 8) by omega, streamBit_of_read hy (by omega)]

/-! ## What is held (R73) -/

theorem pendingBytes_eq (s : State) : pendingBytes s = if s.phase = .rawData then s.segbuf.length else 0 := by
  unfold pendingBytes
  cases s.phase <;> rfl

theorem heldChars_of_done (h : s.run = .done) : heldChars s = s.text.length + pendingBytes s := by
  rw [heldChars, if_pos h, Nat.add_zero]

/-! ## What a step appends, against the bits it reads -/

/-- At most nine characters for each byte read; a macro's header and trailer are the nine. -/
theorem Stepped.heldChars_le (hb : s.run = .busy) (h : Stepped s (.next t)) :
    8 * heldChars t + 9 * s.pos ≤ 8 * heldChars s + 9 * t.pos := by
  cases h
  case short r _ hr => obtain rfl | ⟨-, p, x, y, rfl, -⟩ := hr <;> simp [heldChars, pendingBytes, hb]
  case pair hp _ ht | pairRaise hp _ ht _ =>
    obtain ⟨v, c, l, sh, u, hl, -, rfl⟩ := ht
    simp [heldChars, pendingBytes_eq, hb, hp]
    omega
  case asciiMacro hd hp _ hh =>
    have hlen : hd.length + macroTrailer.length = 9 := by rcases hh with rfl | rfl <;> rfl
    simp [heldChars, pendingBytes_eq, hb, hp]
    omega
  case asciiEmit hp _ _ _ | sixbitEmit hp _ _ | data hp _ _ | segment hp _ =>
    simp [heldChars, pendingBytes_eq, hb, hp]
    omega
  all_goals simp [heldChars, pendingBytes_eq, *]

/-- At most one segment byte for each byte read. -/
theorem Stepped.heldBytes_le (h : Stepped s (.next t)) :
    8 * heldBytes t + s.pos ≤ 8 * heldBytes s + t.pos := by
  cases h
  case short r _ hr =>
    obtain rfl | ⟨-, p, x, y, rfl, -⟩ := hr
    · exact le_rfl
    · exact Nat.add_le_add_left (Nat.le_add_right _ 8) _
  case pair hp _ ht | pairRaise hp _ ht _ =>
    obtain ⟨v, c, l, sh, u, -, -, rfl⟩ := ht
    simp [heldBytes, pendingBytes_eq, hp]
  case data hp _ _ =>
    simp [heldBytes, pendingBytes_eq, hp]
    omega
  all_goals simp [heldBytes, pendingBytes_eq, *]

/-- A segment takes sixteen bits before it is appended: eight for its latch, eight for its header. -/
theorem Stepped.segments_le (h : Stepped s (.next t)) :
    16 * t.segs.length + segmentCredit t + s.pos ≤ 16 * s.segs.length + segmentCredit s + t.pos := by
  cases h
  case loopEnd => exact le_rfl
  case short r _ hr =>
    obtain rfl | ⟨-, p, x, y, rfl, -⟩ := hr
    · exact le_rfl
    · exact Nat.add_le_add_left (Nat.le_add_right _ 8) _
  case pair ht | pairRaise ht _ =>
    obtain ⟨v, c, l, sh, u, -, -, rfl⟩ := ht
    exact Nat.add_le_add_left (Nat.le_add_right _ 16) _
  case asciiReturn m hp _ =>
    simp only [segmentCredit, hp, State.returnTo_phase, State.returnTo_mode, State.returnTo_segs, State.returnTo_pos]
    split <;> omega
  case segment hp _ | header1 hp _ | header2 hp _ =>
    simp [segmentCredit, hp]
    omega
  all_goals simp [segmentCredit, *]

/-! ## The bounds -/

theorem step_keeps_capacity (hs : Capacity s) (h : step s = .next t) : Capacity t := by
  obtain ⟨-, rfl⟩ | ⟨hb, hst⟩ := step_next_cases h
  · exact hs
  · have := hst.heldChars_le hb
    have := hst.heldBytes_le
    have := hst.segments_le
    unfold Capacity at *
    omega

/-- What every step keeps holds after any number of steps. -/
theorem steps_keep {P : State → Prop} (hstep : ∀ s t, P s → step s = .next t → P t) {k : Nat} (hs : P s)
    (h : steps k s = .next t) : P t := by
  induction k generalizing s with
  | zero => exact Host.Outcome.next.inj h ▸ hs
  | succ k ih =>
    cases hst : step s with
    | next u => exact ih (hstep s u hs hst) (steps_succ_of_next hst ▸ h)
    | fault | refused => simp [steps, hst] at h

/-- In a completed machine the bounds on what is held are bounds on the outputs. -/
theorem outputs_le_of_done (hs : Capacity s) (hcur : CursorInside s) (hd : s.run = .done) :
    s.text.length ≤ 9 * s.n ∧ (s.segs.map List.length).sum ≤ s.n ∧ s.segs.length ≤ s.n / 2 := by
  unfold Capacity at hs
  rw [heldChars_of_done hd, heldBytes] at hs
  omega

theorem step_n_eq (h : step s = .next t) : t.n = s.n := by
  obtain ⟨⟨-, hn, -, -⟩, -⟩ := stepsKeepTheBufferAndOnlyGrow s t h
  exact hn

/-- N is the length of the supplied buffer during the whole invocation. -/
theorem steps_invoked_n {bs : List Byte} {k : Nat} (h : steps k (invoked bs s) = .next t) : t.n = bs.length :=
  steps_keep (P := fun u => u.n = bs.length) (fun _ _ hn hst => (step_n_eq hst).trans hn) rfl h

end Sys2Proof.Machine

open Sys2Proof Sys2Proof.Machine

/-- Settles O8: the sum by induction on the width, the two byte reads bit by bit. -/
theorem memReadIsTheSumOfItsBits : Obligations.MemReadIsTheSumOfItsBits :=
  ⟨fun _ _ _ _ => memRead_eq_sum, fun _ _ _ hx => ⟨memRead_byte hx, fun _ _ _ hj hy => memRead_byte_offset hj hx hy⟩⟩

/-- Settles O54: each accumulator grows by no more than the bits a step reads allow. -/
theorem stepKeepsTheCapacityBounds : Obligations.StepKeepsTheCapacityBounds :=
  fun _ _ => step_keeps_capacity

/-- Settles O55: a launch meets the capacity bounds, every step keeps them, and POS is at most 8N. -/
theorem completedOutputsFitTheirBounds : Obligations.CompletedOutputsFitTheirBounds := by
  intro bs s t k h hd
  have hcap : Capacity t := steps_keep (fun _ _ => step_keeps_capacity) (launched_capacity _) h
  obtain ⟨-, hcur, -⟩ : Inv t := steps_keep (fun _ _ => step_keeps_inv) (invoked_inv bs s) h
  exact steps_invoked_n h ▸ outputs_le_of_done hcap hcur hd

end

section
/-! PROOFS. The family 30_encoding.md: the maps are total and disjoint and the encoder is their inverse (R96 to R109),
pairs and Sixbit groups unpack to what was packed (R92, R94, R108), and the bytes of a unit at the cursor are read back and run. -/

namespace Sys2Proof

open Machine

/-! ## Operand ranges -/

@[simp] theorem inRange_iff {lo hi w : Nat} {c : BitVec w} :
    inRange lo hi c = true ↔ lo ≤ c.toNat ∧ c.toNat ≤ hi := by
  simp [inRange]

@[simp] theorem pairFirst_iff {b : Byte} : pairFirst b = true ↔ b.toNat ≠ 254 := by
  simp [pairFirst]

@[simp] theorem shift2Miss_iff {c : Val} :
    shift2Miss c = true ↔ (28 ≤ c.toNat ∧ c.toNat ≤ 29) ∨ (31 ≤ c.toNat ∧ c.toNat ≤ 40) := by
  simp [shift2Miss]

theorem sixbitBit5_iff {e : Nat} (h : e < 64) : sixbitBit5 e = true ↔ 32 ≤ e := by
  revert e
  decide

/-! ## From a unit to its value and back -/

/-- The decoder undoes the encoder: each range of a map is where the operands of its unit lie. -/
theorem decode_encode (i : Instr) (h : i.wf = true) : decode i.ctx (encode i) = .ok i := by
  cases i
  case aLit ch =>
    have := ch.isLt
    simp (disch := omega) [Instr.ctx, encode, decode_ascii, decodeAscii, if_pos]
  case aDig2 n | aInv242 n =>
    simp only [Instr.wf, inRange_iff] at h
    simp (disch := omega) [Instr.ctx, encode, decode_ascii, decodeAscii, if_pos, if_neg]
  case cUnl | tUnl | xUnl => exact decode_unlatch _
  case cPair b1 b2 | tPair b1 b2 | xPair b1 b2 => exact decode_pair _ (pairFirst_iff.mp h)
  case cSh c | cBas c | cS1 c | cS2 c | cS2x c | cS3 c | tSh c | tBas c | tS1 c | tS2 c | tS2x c | tS3 c | tS3x c =>
    simp only [Instr.wf, inRange_iff, shift2Miss_iff, tripleMax] at h
    simp (disch := omega) [Instr.ctx, encode, decode_value, decodeBase40, decodeC40, decodeText, if_pos, if_neg]
  case xDig c | xLet c =>
    simp only [Instr.wf, inRange_iff] at h
    simp (disch := omega) [Instr.ctx, encode, decode_valueX12, decodeX12, if_pos, if_neg]
  case eLo e | eHi e =>
    simp only [Instr.wf, inRange_iff] at h
    simp (disch := omega) [Instr.ctx, encode, decode_sixbit, decodeSixbit, sixbitUnlatchValue, sixbitBit5_iff,
      if_pos, if_neg]
  case bLen1 d1 =>
    simp only [Instr.wf, inRange_iff] at h
    simp (disch := omega) [Instr.ctx, encode, decode_header1, decodeHeader, if_neg]
  case bLen2 d1 d2 => exact decode_header2 (inRange_iff.mp h).1
  case bData b => exact decode_data b
  all_goals rfl

/-! ## From a value to its unit and back -/

/-- The unit `i` is well-formed, is read in context `c`, and has the value `v`. -/
def IsUnitOf (c : Ctx) (v : Nat) (i : Instr) : Prop := i.wf = true ∧ i.ctx = c ∧ encode i = v

/-- A map is followed row by row. -/
theorem IsUnitOf.ite {c : Ctx} {v : Nat} {i j : Instr} {p : Prop} [Decidable p] (hi : p → IsUnitOf c v i)
    (hj : ¬ p → IsUnitOf c v j) : IsUnitOf c v (if p then i else j) := by
  split
  · exact hi ‹_›
  · exact hj ‹_›

/-- A row of one value. -/
theorem IsUnitOf.row {c : Ctx} {v n : Nat} {i j : Instr} (hi : IsUnitOf c n i) (hj : v ≠ n → IsUnitOf c v j) :
    IsUnitOf c v (if v = n then i else j) :=
  .ite (fun hv => hv ▸ hi) hj

theorem decodeAscii_isUnitOf {v : Nat} (h : v < 256) : IsUnitOf .ascii v (decodeAscii v) := by
  unfold decodeAscii
  refine .row ⟨rfl, rfl, rfl⟩ fun _ => .ite (fun _ => ?_) fun _ => ?_
  · exact ⟨rfl, rfl, by simp [encode]; omega⟩
  refine .row ⟨rfl, rfl, rfl⟩ fun _ => .ite (fun _ => ?_) fun _ => ?_
  · have hd : (BitVec.ofNat 7 (v - 130)).toNat = v - 130 := by simp; omega
    exact ⟨inRange_iff.mpr (by omega), rfl, by simp only [encode]; omega⟩
  iterate 12 refine .row ⟨rfl, rfl, rfl⟩ fun _ => ?_
  refine .ite (fun _ => ?_) fun _ => .row ⟨rfl, rfl, rfl⟩ fun _ => ?_
  · have hcw := toNat_ofNat8 h
    exact ⟨inRange_iff.mpr (by omega), rfl, hcw⟩
  · exact ⟨rfl, rfl, by simp only [encode]; omega⟩

theorem decodeBase40_isUnitOf (m : Base40) (sh : Shift) {v : Nat} (h : v ≤ 40) :
    IsUnitOf (.value m sh) v (decodeBase40 m sh v) := by
  cases m <;> cases sh <;> simp only [decodeBase40, decodeC40, decodeText]
  all_goals
    repeat' refine .ite (fun _ => ?_) fun _ => ?_
  all_goals
    simp [IsUnitOf, Instr.wf, Instr.ctx, encode, tripleMax]
    omega

theorem decodeX12_isUnitOf {v : Nat} (h : v ≤ 40) : IsUnitOf .valueX12 v (decodeX12 v) := by
  unfold decodeX12
  repeat' refine .ite (fun _ => ?_) fun _ => ?_
  all_goals
    simp [IsUnitOf, Instr.wf, Instr.ctx, encode]
    omega

theorem decodeSixbit_isUnitOf {v : Nat} (h : v < 64) : IsUnitOf .sixbit v (decodeSixbit v) := by
  simp only [decodeSixbit, sixbitUnlatchValue, sixbitBit5_iff h]
  repeat' refine .ite (fun _ => ?_) fun _ => ?_
  all_goals
    simp [IsUnitOf, Instr.wf, Instr.ctx, encode]
    omega

theorem decodeHeader_isUnitOf {v : Nat} (h : v < 250) : IsUnitOf .header1 v (decodeHeader v) := by
  refine .ite (fun _ => ?_) fun _ => ?_
  all_goals
    simp [IsUnitOf, Instr.wf, Instr.ctx, encode]
    omega

theorem unlatchUnit_isUnitOf (m : TripleMode) : IsUnitOf (.unlatch m) 254 (unlatchUnit m) := by
  cases m <;> exact ⟨rfl, rfl, rfl⟩

theorem pairUnit_isUnitOf (m : TripleMode) {b1 b2 : Byte} (h : b1.toNat ≠ 254) :
    IsUnitOf (.pair m) (pairWord b1 b2) (pairUnit m b1 b2) := by
  cases m <;> exact ⟨pairFirst_iff.mpr h, rfl, rfl⟩

/-- The values of a two-byte header are those whose first byte is 250 or more (R95). -/
theorem le_high_of_le_pairWord {d1 d2 : Byte} (h : 64000 ≤ pairWord d1 d2) : 250 ≤ d1.toNat := by
  rw [← pairWord_div d1 d2]
  omega

theorem exists_byte {v : Nat} (h : v < 256) : ∃ b : Byte, v = b.toNat :=
  ⟨BitVec.ofNat 8 v, (toNat_ofNat8 h).symm⟩

/-- The maps are total on what a context admits. -/
theorem exists_decode_of_admits {c : Ctx} {v : Nat} (h : admits c v) :
    ∃ i, decode c v = .ok i ∧ IsUnitOf c v i := by
  cases c with
  | ascii => exact ⟨_, decode_ascii h, decodeAscii_isUnitOf h⟩
  | unlatch m => obtain rfl : v = 254 := h; exact ⟨_, decode_unlatch m, unlatchUnit_isUnitOf m⟩
  | pair m =>
    obtain ⟨hv, hu⟩ := h
    obtain ⟨b1, b2, rfl⟩ := exists_pairWord hv
    rw [pairWord_div] at hu
    exact ⟨_, decode_pair m hu, pairUnit_isUnitOf m hu⟩
  | value m sh => exact ⟨_, decode_value m sh h, decodeBase40_isUnitOf m sh h⟩
  | valueX12 => exact ⟨_, decode_valueX12 h, decodeX12_isUnitOf h⟩
  | sixbit => exact ⟨_, decode_sixbit h, decodeSixbit_isUnitOf h⟩
  | header1 => exact ⟨_, decode_header1 h, decodeHeader_isUnitOf h⟩
  | header2 =>
    obtain ⟨hlo, hv⟩ := h
    obtain ⟨d1, d2, rfl⟩ := exists_pairWord hv
    have hd := le_high_of_le_pairWord hlo
    exact ⟨_, decode_header2 hd, inRange_iff.mpr ⟨hd, by have := d1.isLt; omega⟩, rfl, rfl⟩
  | data =>
    obtain ⟨b, rfl⟩ := exists_byte h
    exact ⟨_, decode_data b, rfl, rfl, rfl⟩

/-- What a context does not admit is rejected. -/
theorem exists_reject_of_not_admits {c : Ctx} {v : Nat} (h : ¬ admits c v) : ∃ r, decode c v = .error r := by
  by_cases hw : 2 ^ c.format.width ≤ v
  · exact ⟨.tooWide, if_pos hw⟩
  · rw [decode.eq_def, if_neg hw]
    cases c with
    | ascii | sixbit | data => exact absurd (not_le.mp hw) h
    | unlatch m => exact ⟨.notUnlatch, if_neg h⟩
    | pair m => exact ⟨.unlatchByte, if_pos (by_contra fun hu => h ⟨not_le.mp hw, hu⟩)⟩
    | value m sh | valueX12 => exact ⟨.valueAbove40, if_neg h⟩
    | header1 => exact ⟨.headerHasTwoBytes, if_neg h⟩
    | header2 => exact ⟨.headerHasOneByte, if_pos (by_contra fun hd => h ⟨by omega, not_le.mp hw⟩)⟩

/-- When the decoder answers a unit, and which. -/
theorem decode_eq_ok_iff {c : Ctx} {v : Nat} {i : Instr} : decode c v = .ok i ↔ admits c v ∧ IsUnitOf c v i := by
  constructor
  · intro h
    by_cases ha : admits c v
    · obtain ⟨j, hj, hu⟩ := exists_decode_of_admits ha
      obtain rfl : j = i := Except.ok.inj (hj.symm.trans h)
      exact ⟨ha, hu⟩
    · obtain ⟨r, hr⟩ := exists_reject_of_not_admits ha
      cases hr.symm.trans h
  · rintro ⟨-, hw, rfl, rfl⟩
    exact decode_encode i hw

end Sys2Proof

namespace Sys2Proof.Machine

/-! ## Pairs (R92, R108) -/

theorem pack3_tripleOf {v : Nat} (h : v < 65535) : pack3 (tripleOf v) = v + 1 := by
  simp only [pack3, tripleOf, BitVec.toNat_ofNat]
  omega

theorem tripleOf_pack3 {t : Triple} (h2 : t.c2.toNat ≤ 39) (h3 : t.c3.toNat ≤ 39) : tripleOf (pack3 t - 1) = t := by
  obtain ⟨c1, c2, c3⟩ := t
  dsimp only at h2 h3
  simp only [tripleOf, pack3, Triple.mk.injEq]
  refine ⟨?_, ?_, ?_⟩ <;> refine BitVec.eq_of_toNat_eq ?_ <;> rw [BitVec.toNat_ofNat] <;> omega

theorem unpack3_eq_some_iff {b1 b2 : Byte} {t : Triple} :
    unpack3 b1 b2 = some t ↔ pairWord b1 b2 ≠ 0 ∧ tripleOf (pairWord b1 b2 - 1) = t := by
  simp [unpack3]

theorem unpack3_eq_none_iff {b1 b2 : Byte} : unpack3 b1 b2 = none ↔ b1 = 0 ∧ b2 = 0 := by
  simp [unpack3, pairWord, ← BitVec.toNat_inj]

theorem pairWord_pairBytes {t : Triple} (h : pack3 t ≤ 65535) : pairWord (pairBytes t).1 (pairBytes t).2 = pack3 t :=
  pairWord_high_low (Nat.lt_succ_of_le h)

theorem unpack3_pairBytes {t : Triple} (h2 : t.c2.toNat ≤ 39) (h3 : t.c3.toNat ≤ 39) (h : pack3 t ≤ 65535) :
    unpack3 (pairBytes t).1 (pairBytes t).2 = some t := by
  rw [unpack3_eq_some_iff, pairWord_pairBytes h]
  exact ⟨Nat.succ_ne_zero _, tripleOf_pack3 h2 h3⟩

theorem pack3_of_unpack3 {b1 b2 : Byte} {t : Triple} (h : unpack3 b1 b2 = some t) : pack3 t = pairWord b1 b2 := by
  obtain ⟨h0, rfl⟩ := unpack3_eq_some_iff.mp h
  have := pairWord_lt b1 b2
  rw [pack3_tripleOf (by omega)]
  omega

/-! ## Sixbit groups (R94, R108) -/

/-- Where the `nb` bytes of the number `g` stand, the most significant first, a read returns a slice of `g`'s bits. -/
theorem memRead_of_bigEndian {m : Memory} {g k nb o n : Nat}
    (h : ∀ j < nb, m.read (k + j) = some (BitVec.ofNat 8 (g / 256 ^ (nb - 1 - j) % 256))) (hn : o + n ≤ 8 * nb) :
    memRead m (8 * k + o) n = some (g / 2 ^ (8 * nb - (o + n)) % 2 ^ n) := by
  refine memRead_eq_of_testBit (Nat.mod_lt _ (by positivity)) fun i hi => ?_
  have hj := h ((o + i) / 8) (by omega)
  rw [show 8 * k + o + i = 8 * (k + (o + i) / 8) + (o + i) % 8 by omega, streamBit_of_read hj (by omega)]
  rw [show 256 = 2 ^ 8 from rfl, ← pow_mul, BitVec.getLsbD_ofNat]
  simp only [Nat.testBit_mod_two_pow, Nat.testBit_div_two_pow]
  rw [show 7 - (o + i) % 8 + 8 * (nb - 1 - (o + i) / 8) = n - 1 - i + (8 * nb - (o + n)) by omega]
  simp [show 7 - (o + i) % 8 < 8 by omega, show n - 1 - i < n by omega]

/-- The 24-bit number of a group of four values. -/
def groupNumber (e1 e2 e3 e4 : Val) : Nat := ((e1.toNat * 64 + e2.toNat) * 64 + e3.toNat) * 64 + e4.toNat

theorem getElem?_groupBytes (e1 e2 e3 e4 : Val) {j : Nat} (h : j < 3) :
    (groupBytes [e1, e2, e3, e4])[j]? =
      some (BitVec.ofNat 8 (groupNumber e1 e2 e3 e4 / 256 ^ (3 - 1 - j) % 256)) := by
  simp [groupBytes, groupNumber, h]

/-! ## The derandomizer (R95, R108) -/

theorem derandomize_eq_sub (w : Byte) (p : Nat) : derandomize w p = w - BitVec.ofNat 8 (pseudoRandom p) := by
  refine BitVec.eq_of_toNat_eq ?_
  simp only [derandomize]
  split <;> simp [BitVec.toNat_ofInt, BitVec.toNat_sub] <;> omega

theorem randomize_eq_add (x : Byte) (p : Nat) : randomize x p = x + BitVec.ofNat 8 (pseudoRandom p) := by
  refine BitVec.eq_of_toNat_eq ?_
  simp [randomize]

@[simp] theorem derandomize_randomize (x : Byte) (p : Nat) : derandomize (randomize x p) p = x := by
  rw [derandomize_eq_sub, randomize_eq_add, BitVec.add_sub_cancel]

/-! ## The bytes of a unit at the cursor -/

variable {s : State}

theorem readRaw_of_memRead_randomize {x : Byte} (h : 8 ≤ available s)
    (hm : memRead s.cw s.pos 8 = some (randomize x s.p).toNat) :
    readRaw s = .ok (x, { s with pos := s.pos + 8, p := s.p + 1 }) :=
  readRaw_ok_iff.mpr ⟨h, _, hm, by simp, rfl⟩

theorem fetchAscii_of_read {v : Nat} (h : 8 ≤ available s) (hm : memRead s.cw s.pos 8 = some v) :
    fetchAscii s = decoded .ascii v (afterRead .ascii v s) := by
  rw [fetchAscii, if_neg (by omega), readBits_of_memRead h hm]
  rfl

theorem fetchTriple_of_unlatch (m : TripleMode) (h : 8 < available s) (hm : memRead s.cw s.pos 8 = some 254) :
    fetchTriple m s = decoded (.unlatch m) 254 (afterRead (.unlatch m) 254 s) := by
  rw [fetchTriple, if_neg (by omega), if_neg (by omega), readBits_of_memRead h.le hm]
  rfl

theorem fetchTriple_of_pair (m : TripleMode) {b1 b2 : Byte} (h : 16 ≤ available s) (hb : b1.toNat ≠ 254)
    (hm1 : memRead s.cw s.pos 8 = some b1.toNat) (hm2 : memRead s.cw (s.pos + 8) 8 = some b2.toNat) :
    fetchTriple m s = decoded (.pair m) (pairWord b1 b2) (afterRead (.pair m) (pairWord b1 b2) s) := by
  rw [fetchTriple, if_neg (by omega), if_neg (by omega), readBits_of_memRead (by omega) hm1, ok_bind]
  dsimp only
  rw [if_neg hb, readBits_of_memRead (by simp only [available] at h ⊢; omega) hm2, ok_bind]
  simp only [afterRead, highByte_pairWord, lowByte_pairWord, BitVec.ofNat_toNat, BitVec.setWidth_eq]
  rfl

theorem fetchHeader_of_one {d1 : Byte} (h : 8 ≤ available s) (hd : d1.toNat < 250)
    (hm : memRead s.cw s.pos 8 = some (randomize d1 s.p).toNat) :
    fetchHeader s = decoded .header1 d1.toNat (afterRead .header1 d1.toNat s) := by
  rw [fetchHeader, readRaw_of_memRead_randomize h hm, ok_bind]
  simp [hd, afterRead]

theorem fetchHeader_of_two {d1 d2 : Byte} (h : 16 ≤ available s) (hd : 250 ≤ d1.toNat)
    (hm1 : memRead s.cw s.pos 8 = some (randomize d1 s.p).toNat)
    (hm2 : memRead s.cw (s.pos + 8) 8 = some (randomize d2 (s.p + 1)).toNat) :
    fetchHeader s = decoded .header2 (pairWord d1 d2) (afterRead .header2 (pairWord d1 d2) s) := by
  rw [fetchHeader, readRaw_of_memRead_randomize (by omega) hm1, ok_bind]
  dsimp only
  have h2 : readRaw { s with pos := s.pos + 8, p := s.p + 1, d1 := d1 } =
      .ok (d2, { s with pos := s.pos + 16, p := s.p + 2, d1 := d1 }) :=
    readRaw_of_memRead_randomize (by simp only [available] at h ⊢; omega) hm2
  rw [if_neg (by omega), h2, ok_bind]
  simp only [afterRead, highByte_pairWord, lowByte_pairWord]

theorem fetchData_of_read {b : Byte} (h : 8 ≤ available s) (hc : s.segbuf.length < s.cnt)
    (hm : memRead s.cw s.pos 8 = some (randomize b s.p).toNat) :
    fetchData s = decoded .data b.toNat (afterRead .data b.toNat s) := by
  rw [fetchData, if_neg (by omega), if_neg (by omega), readRaw_of_memRead_randomize h hm]
  rfl

/-- Byte `j` of the bytes laid out at the cursor. -/
theorem memRead_at_cursor {bs : List Byte} {k : Nat} (hpos : s.pos = 8 * k)
    (hbs : ∀ j < bs.length, s.cw.read (k + j) = bs[j]?) (j : Nat) {b : Byte} (hb : bs[j]? = some b) :
    memRead s.cw (s.pos + 8 * j) 8 = some b.toNat := by
  obtain ⟨hj, -⟩ := List.getElem?_eq_some_iff.mp hb
  rw [hpos, ← Nat.mul_add]
  exact memRead_byte ((hbs j hj).trans hb)

/-- Each procedure hands the value of the unit whose bytes stand at the cursor to the decoder. -/
theorem fetch_encodeBytes {i : Instr} {bs : List Byte} {k : Nat} (hwf : i.wf = true)
    (hbytes : encodeBytes (k + 1) i = some bs) (hpos : s.pos = 8 * k)
    (hbs : ∀ j < bs.length, s.cw.read (k + j) = bs[j]?) (hn : k + bs.length ≤ s.n) (hreads : readsAt i.ctx (k + 1) s) :
    fetch s = decoded i.ctx (encode i) (afterRead i.ctx (encode i) s) := by
  obtain ⟨hadm, -⟩ := decode_eq_ok_iff.mp (decode_encode i hwf)
  have havail : 8 * bs.length ≤ available s := by unfold available; omega
  have hmem := memRead_at_cursor hpos hbs
  unfold encodeBytes Instr.format at hbytes
  clear hwf
  generalize i.ctx = c at *
  generalize encode i = v at *
  cases c with
  | ascii =>
    obtain ⟨b, rfl⟩ := exists_byte hadm
    obtain rfl : [b] = bs := by simpa [Ctx.format] using hbytes
    rw [fetch_ascii hreads]
    exact fetchAscii_of_read havail (hmem 0 rfl)
  | unlatch m =>
    obtain rfl : v = 254 := hadm
    obtain rfl : [254] = bs := by simpa [Ctx.format] using hbytes
    obtain ⟨hphase, h8⟩ := hreads
    rw [fetch_triple hphase]
    exact fetchTriple_of_unlatch m (lt_of_le_of_ne havail h8.symm) (hmem 0 rfl)
  | pair m =>
    obtain ⟨hv, hu⟩ := hadm
    obtain ⟨b1, b2, rfl⟩ := exists_pairWord hv
    obtain rfl : [b1, b2] = bs := by simpa [Ctx.format] using hbytes
    rw [pairWord_div] at hu
    rw [fetch_triple hreads]
    exact fetchTriple_of_pair m havail hu (hmem 0 rfl) (hmem 1 rfl)
  | header1 =>
    obtain ⟨d1, rfl⟩ := exists_byte (Nat.lt_trans hadm (by decide))
    obtain ⟨hphase, hp⟩ := hreads
    obtain rfl : [randomize d1 s.p] = bs := by simpa [Ctx.format, hp] using hbytes
    rw [fetch_rawHeader hphase]
    exact fetchHeader_of_one havail hadm (hmem 0 rfl)
  | header2 =>
    obtain ⟨hlo, hv⟩ := hadm
    obtain ⟨d1, d2, rfl⟩ := exists_pairWord hv
    obtain ⟨hphase, hp⟩ := hreads
    obtain rfl : [randomize d1 s.p, randomize d2 (s.p + 1)] = bs := by simpa [Ctx.format, hp] using hbytes
    rw [fetch_rawHeader hphase]
    exact fetchHeader_of_two havail (le_high_of_le_pairWord hlo) (hmem 0 rfl) (hmem 1 rfl)
  | data =>
    obtain ⟨b, rfl⟩ := exists_byte hadm
    obtain ⟨hphase, hp, hcnt⟩ := hreads
    obtain rfl : [randomize b s.p] = bs := by simpa [Ctx.format, hp] using hbytes
    rw [fetch_rawData hphase]
    exact fetchData_of_read havail hcnt (hmem 0 rfl)
  | value | valueX12 | sixbit => exact hreads.elim

end Sys2Proof.Machine

open Sys2Proof Sys2Proof.Machine

/-- Settles O2: every unit's operands lie in the range of its own row. -/
theorem decodeInvertsEncode : Obligations.DecodeInvertsEncode := decode_encode

/-- Settles O4: the procedure that reads the unit hands its value to the decoder, and the decoder undoes the encoder. -/
theorem encodedBytesAtTheCursorRun : Obligations.EncodedBytesAtTheCursorRun := by
  intro i bs k s hwf hbytes hrun hpos hbs hn hreads
  have hfetch := fetch_encodeBytes hwf hbytes hpos hbs hn hreads
  rw [decoded, decode_encode i hwf] at hfetch
  exact step_of_unit hrun hfetch

/-- Settles O3: the decoder follows the maps row by row, and it undoes the encoder, so no second unit has the value. -/
theorem everyValueHasExactlyOneRow : Obligations.EveryValueHasExactlyOneRow := by
  refine fun c v => ⟨fun h => ?_, exists_reject_of_not_admits⟩
  obtain ⟨i, hi, hwf, hctx, henc⟩ := exists_decode_of_admits h
  refine ⟨i, hi, hwf, hctx, henc, fun j hjwf hjctx hjenc => ?_⟩
  have hj : decode c v = .ok j := decode_eq_ok_iff.mpr ⟨h, hjwf, hjctx, hjenc⟩
  exact Except.ok.inj (hj.symm.trans hi)

/-- Settles O5: the three bytes are a 24-bit number, and each read takes six of its bits. -/
theorem sixbitGroupReadsBack : Obligations.SixbitGroupReadsBack := by
  intro m k e1 e2 e3 e4 h
  have hread := fun o (ho : o + 6 ≤ 24) =>
    memRead_of_bigEndian (n := 6) (fun j hj => (h j hj).trans (getElem?_groupBytes e1 e2 e3 e4 hj)) ho
  refine ⟨(hread 0 (by omega)).trans ?_, (hread 6 (by omega)).trans ?_, (hread 12 (by omega)).trans ?_,
    (hread 18 (by omega)).trans ?_⟩
  all_goals
    rw [Option.some.injEq, groupNumber]
    omega

/-- Settles O6: `w - 1` is a number with the digits `c1`, `c2`, `c3` in the bases 1600 and 40. -/
theorem unpackInvertsPack : Obligations.UnpackInvertsPack :=
  ⟨fun _ _ h2 h3 hw => unpack3_pairBytes h2 h3 hw, fun _ _ _ h => ⟨pack3_of_unpack3 h, unpack3_le h⟩,
    fun _ _ => unpack3_eq_none_iff⟩

/-- Settles O1: the decoder evaluated at the seven words. -/
theorem writtenOutWordsDecode : Obligations.WrittenOutWordsDecode :=
  ⟨rfl, rfl, rfl, rfl, rfl, rfl, rfl⟩

end

section
/-! PROOFS. The family 40_bitcursor.md: the bounded read and its raise (R120, R124, R125), and the discard to a byte boundary (R126). -/

namespace Sys2Proof.Machine

variable {s t : State}

/-! ## The discard to a byte boundary (R126) -/

/-- `Realign()` cannot run out of data: `8N` is a multiple of 8, so the cursor's byte ends inside the buffer. -/
theorem realign_of_filled (hf : BufferFilled s) (hc : CursorInside s) :
    realign s = .ok { s with pos := (s.pos + 7) / 8 * 8 } := by
  have hcur : s.pos ≤ 8 * s.n := hc
  unfold realign
  split
  · have hpos : (s.pos + 7) / 8 * 8 = s.pos := by omega
    rw [hpos]
  · have hroom : 8 - s.pos % 8 ≤ available s := by unfold available; omega
    have hpos : s.pos + (8 - s.pos % 8) = (s.pos + 7) / 8 * 8 := by omega
    obtain ⟨v, -, -, hread⟩ := hf.readBits hc hroom
    rw [hread, hpos, ok_bind]

/-! ## Reads with too few bits left -/

/-- A fetch that runs out of data takes the abort in the state of the failing read (60_exceptions.md R352, R356). -/
theorem step_of_outOfData (hb : s.run = .busy) (hf : fetch s = raise .outOfData t) :
    step s = .next (t.abort .outOfData) :=
  step_of_stop hb hf

theorem readRaw_short (h : available s < 8) : readRaw s = raise .outOfData s := by
  rw [readRaw, readBits_short h, raise_bind]

theorem fetchAscii_short (h0 : 0 < available s) (h : available s < 8) : fetchAscii s = raise .outOfData s := by
  rw [fetchAscii, if_neg (by omega), readBits_short h, raise_bind]

theorem fetchTriple_short (m : TripleMode) (h0 : 0 < available s) (h : available s < 8) :
    fetchTriple m s = raise .outOfData s := by
  rw [fetchTriple, if_neg (by omega), if_neg (by omega), readBits_short h, raise_bind]

theorem fetchSixbit_short {k : Fin 4} (hk : k ≠ 0) (h : available s < 6) : fetchSixbit k s = raise .outOfData s := by
  rw [fetchSixbit, if_neg (fun hfirst => hk hfirst.1), readBits_short h, raise_bind]

theorem fetchHeader_short (h : available s < 8) : fetchHeader s = raise .outOfData s := by
  rw [fetchHeader, readRaw_short h, raise_bind]

theorem fetchData_short (hc : s.segbuf.length < s.cnt) (h : available s < 8) : fetchData s = raise .outOfData s := by
  rw [fetchData, if_neg (by omega), if_pos h]

/-- The second byte of a pair fails after the first has been read (R125). -/
theorem fetchTriple_second_short (m : TripleMode) {x : Nat} (h8 : 8 < available s) (h16 : available s < 16)
    (hm : memRead s.cw s.pos 8 = some x) (hx : x ≠ 254) :
    fetchTriple m s = raise .outOfData { s with pos := s.pos + 8, b1 := BitVec.ofNat 8 x } := by
  rw [fetchTriple, if_neg (by omega), if_neg (by omega), readBits_of_memRead h8.le hm, ok_bind]
  dsimp only
  rw [if_neg hx, readBits_short (by simp only [available] at h16 ⊢; omega), raise_bind]

/-- The second header byte fails after the first has been read and derandomized (R125; 46_rawbytes.md R296). -/
theorem fetchHeader_second_short {w : Nat} (h8 : 8 ≤ available s) (h16 : available s < 16)
    (hm : memRead s.cw s.pos 8 = some w) (hd : 250 ≤ (derandomize (BitVec.ofNat 8 w) s.p).toNat) :
    fetchHeader s = raise .outOfData
      { s with pos := s.pos + 8, p := s.p + 1, d1 := derandomize (BitVec.ofNat 8 w) s.p } := by
  rw [fetchHeader, readRaw_ok_iff.mpr ⟨h8, w, hm, rfl, rfl⟩, ok_bind]
  dsimp only
  rw [if_neg (by omega), readRaw_short (by simp only [available] at h16 ⊢; omega), raise_bind]

end Sys2Proof.Machine

open Sys2Proof Sys2Proof.Machine

/-- Settles O9: `Available()` is the bound that the read tests, and a filled buffer has a byte for each bit of the read. -/
theorem readBitsIsBounded : Obligations.ReadBitsIsBounded :=
  fun _ _ hf hc => ⟨readBits_short, hf.readBits hc⟩

/-- Settles O10: with SIXBIT_REALIGN = 1 the rest of the byte is discarded before the return, with 0 the return stands alone. -/
theorem sixbitUnlatchForBothRealignValues : Obligations.SixbitUnlatchForBothRealignValues := by
  intro s hf hc
  refine ⟨?_, rfl⟩
  rw [sixbitUnlatch, if_pos rfl, realign_of_filled hf hc]
  rfl

/-- Settles O11: in each procedure the failing read raises on the state the reads before it left. -/
theorem shortReadsRaiseOutOfData : Obligations.ShortReadsRaiseOutOfData := by
  intro s hb
  refine ⟨?_, ?_, ?_⟩
  · intro hshort
    refine step_of_outOfData hb ?_
    rcases hshort with ⟨hp, h0, h8⟩ | ⟨m, hp, h0, h8⟩ | ⟨k, hp, hk, h6⟩ | ⟨hp, h8⟩ | ⟨hp, hc, h8⟩
    · exact (fetch_ascii hp).trans (fetchAscii_short h0 h8)
    · exact (fetch_triple hp).trans (fetchTriple_short m h0 h8)
    · exact (fetch_sixbit hp).trans (fetchSixbit_short hk h6)
    · exact (fetch_rawHeader hp).trans (fetchHeader_short h8)
    · exact (fetch_rawData hp).trans (fetchData_short hc h8)
  · rintro x ⟨m, hp⟩ h8 h16 hm hx
    exact step_of_outOfData hb ((fetch_triple hp).trans (fetchTriple_second_short m h8 h16 hm hx))
  · intro w hp h8 h16 hm hd
    exact step_of_outOfData hb ((fetch_rawHeader hp).trans (fetchHeader_second_short h8 h16 hm hd))

end

section
/-! PROOFS. The family 41_dispatch.md, one step at a time: the loop test, the entries and the exit (R140, R141, R144), the unit a step runs
(R148), and the mode graph (R145). -/

namespace Sys2Proof.Machine

variable {s t : State}

/-! ## The loop test -/

/-- A step at the loop test is the loop's choice. -/
theorem step_of_loop (hb : s.run = .busy) (hp : s.phase = .loop) : step s = .next (fetchLoop s) :=
  step_of_quiet hb (fetch_loop hp)

theorem fetchLoop_of_end (h : s.mode = .pad ∨ available s = 0) : fetchLoop s = complete s := by
  rw [fetchLoop]
  obtain hm | ha := h
  · rw [hm, ite_self]
  · rw [if_pos ha]

theorem fetchLoop_ascii (ha : 0 < available s) (hm : s.mode = .ascii) : fetchLoop s = enterAscii s := by
  rw [fetchLoop, if_neg ha.ne', hm]

theorem fetchLoop_triple (ha : 0 < available s) {m : TripleMode} (hm : s.mode = m.mode) :
    fetchLoop s = enterTriple m s := by
  rw [fetchLoop, if_neg ha.ne', hm]
  cases m <;> rfl

theorem fetchLoop_edf (ha : 0 < available s) (hm : s.mode = .edf) : fetchLoop s = enterSixbit s := by
  rw [fetchLoop, if_neg ha.ne', hm]

theorem fetchLoop_b256 (ha : 0 < available s) (hm : s.mode = .b256) : fetchLoop s = enterRaw s := by
  rw [fetchLoop, if_neg ha.ne', hm]

/-- Appending the trailer only when it is non-empty is appending it (R144). -/
theorem complete_eq (s : State) :
    complete s = { s with text := s.text ++ s.trl, run := .done, raw := s.cw.bytes } := by
  rw [← complete_text]
  rfl

/-! ## The unit of a step -/

theorem decoded_of_ok {c : Ctx} {v : Nat} {i : Instr} (h : decode c v = .ok i) (s : State) :
    decoded c v s = .ok (.unit i s) := by
  rw [decoded, h]

theorem le_available_of_readBits {n v : Nat} (h : readBits n s = .ok (v, t)) : n ≤ available s :=
  (readBits_ok_iff.mp h).1

/-! ## The mode graph -/

theorem modeEdge_self (a : Mode) : modeEdge a a = true := by cases a <;> rfl

theorem modeEdge_ascii {a : Mode} (h : a ≠ .pad) : modeEdge a .ascii = true := by
  cases a with
  | pad => exact absurd rfl h
  | _ => rfl

end Sys2Proof.Machine

open Sys2Proof Sys2Proof.Machine

/-- Settles O36: in each procedure the end tests let it read, and the decoder hands the value's unit on. -/
theorem stepRunsTheDecodedUnit : Obligations.StepRunsTheDecodedUnit := by
  intro s i hb
  refine ⟨?ascii, ?unlatch, ?pair, ?sixbit, ?header1, ?header2, ?data⟩
  case ascii =>
    intro cw s1 hp hr hd
    refine step_of_unit hb ?_
    have := le_available_of_readBits hr
    rw [fetch_ascii hp, fetchAscii, if_neg (by omega), hr, ok_bind]
    exact decoded_of_ok hd _
  case unlatch =>
    intro m s1 hp h8 hr hd
    refine step_of_unit hb ?_
    have := le_available_of_readBits hr
    rw [fetch_triple hp, fetchTriple, if_neg (by omega), if_neg h8, hr, ok_bind]
    exact decoded_of_ok hd _
  case pair =>
    intro m x1 x2 s1 s2 hp h8 hr hx hr2 hd
    refine step_of_unit hb ?_
    have := le_available_of_readBits hr
    rw [fetch_triple hp, fetchTriple, if_neg (by omega), if_neg h8, hr, ok_bind]
    dsimp only
    rw [if_neg hx, hr2, ok_bind]
    exact decoded_of_ok hd _
  case sixbit =>
    intro k e s1 hp hk hr hd
    refine step_of_unit hb ?_
    rw [fetch_sixbit hp, fetchSixbit, if_neg (by rintro ⟨h0, h16⟩; exact hk.elim (absurd h0) (by omega)), hr, ok_bind]
    exact decoded_of_ok hd _
  case header1 =>
    intro d1 s1 hp hr h250 hd
    refine step_of_unit hb ?_
    rw [fetch_rawHeader hp, fetchHeader, hr, ok_bind]
    dsimp only
    rw [if_pos h250]
    exact decoded_of_ok hd _
  case header2 =>
    intro d1 d2 s1 s2 hp hr h250 hr2 hd
    refine step_of_unit hb ?_
    rw [fetch_rawHeader hp, fetchHeader, hr, ok_bind]
    dsimp only
    rw [if_neg (by omega), hr2, ok_bind]
    exact decoded_of_ok hd _
  case data =>
    intro b s1 hp hc hr hd
    refine step_of_unit hb ?_
    have h8 := (readRaw_ok_iff.mp hr).1
    rw [fetch_rawData hp, fetchData, if_neg (by omega), if_neg (by omega), hr, ok_bind]
    exact decoded_of_ok hd _

/-- Settles O37: with a bit left the loop's choice is the entry of MODE's decoder. -/
theorem loopEntersTheDecoderOfTheMode : Obligations.LoopEntersTheDecoderOfTheMode := by
  intro s hb hp ha
  rw [step_of_loop hb hp]
  exact ⟨fun hm => congrArg _ (fetchLoop_ascii ha hm), fun m hm => congrArg _ (fetchLoop_triple ha hm),
    fun hm => congrArg _ (fetchLoop_edf ha hm), fun hm => congrArg _ (fetchLoop_b256 ha hm)⟩

/-- Settles O38: the loop's choice is then the exit, which appends the trailer. -/
theorem loopEndAppendsTheTrailerOnce : Obligations.LoopEndAppendsTheTrailerOnce := by
  intro s hb hp h
  rw [step_of_loop hb hp, fetchLoop_of_end h, complete_eq]

/-- Settles O40: only an ASCII unit returns another mode than ASCII, and a decoder that returns to ASCII runs under a MODE other than PAD. -/
theorem modeMovesAlongTheGraph : Obligations.ModeMovesAlongTheGraph := by
  intro s t hphase h
  obtain ⟨-, rfl⟩ | ⟨-, hst⟩ := step_next_cases h
  · exact modeEdge_self _
  cases hst
  case asciiReturn m hp _ =>
    have hm : s.mode = .ascii := by simpa [phaseAgrees, hp] using hphase
    rw [hm]
    rfl
  case leaveAscii hp _ | leaveSixbit hp _ | segment hp _ | sixbitEnd hp _ =>
    exact modeEdge_ascii fun hm => by simp [phaseAgrees, hp, hm] at hphase
  case leaveTriple m hp _ | unlatch m _ hp _ =>
    exact modeEdge_ascii fun hm => by cases m <;> simp [phaseAgrees, hp, hm, TripleMode.mode] at hphase
  case short r _ hr => obtain rfl | ⟨-, p, x, y, rfl, -⟩ := hr <;> exact modeEdge_self _
  case pair ht | pairRaise ht _ => obtain ⟨v, c, l, sh, u, -, -, rfl⟩ := ht; exact modeEdge_self _
  all_goals exact modeEdge_self _

end

section
/-! PROOFS. What the pure function carries, as an abstraction of the machine's state (00_scope.md R5, R7), and what it is for a run of
steps to compute an answer of the function (41_dispatch.md R148). -/

namespace Sys2Proof.Machine

variable {s t : State}

/-! ## The function's flow as an abstraction of the state -/

/-- What the pure function carries where the machine stands in state `s`. -/
def State.flow (s : State) : Fn.Flow where
  pos := s.pos
  rest := (Fn.streamBits s.cw.bytes).drop s.pos
  text := s.text.map BitVec.toNat
  trl := s.trl.map BitVec.toNat
  segs := s.segs.map fun seg => seg.map BitVec.toNat

theorem getElem?_streamBits (bs : List Byte) (a : Nat) :
    (Fn.streamBits bs)[a]? = bs[a / 8]?.map fun b => b.getLsbD (7 - a % 8) := by
  induction bs generalizing a with
  | nil => simp [Fn.streamBits]
  | cons b bs ih =>
    rw [Fn.streamBits, List.flatMap_cons]
    by_cases h : a < 8
    · rw [List.getElem?_append_left (by simpa [Fn.byteBits] using h)]
      simp [Fn.byteBits, h, Nat.div_eq_of_lt h, Nat.mod_eq_of_lt h]
    · rw [List.getElem?_append_right (by simpa [Fn.byteBits] using h)]
      have hlen : (Fn.byteBits b).length = 8 := by simp [Fn.byteBits]
      rw [hlen]
      obtain ⟨a, rfl⟩ := Nat.exists_eq_add_of_le (not_lt.mp h)
      simpa [Fn.streamBits] using ih a

theorem length_streamBits (bs : List Byte) : (Fn.streamBits bs).length = 8 * bs.length := by
  simp [Fn.streamBits, Fn.byteBits, mul_comm]

theorem BufferFilled.getElem?_streamBits (h : BufferFilled s) (a : Nat) :
    (Fn.streamBits s.cw.bytes)[a]? = streamBit s.cw a := by
  rw [Machine.getElem?_streamBits, streamBit, h.read_eq_bytes]

theorem BufferFilled.length_bytes (h : BufferFilled s) : s.cw.bytes.length = s.n := by
  simpa [Memory.bytes] using congrArg List.length h

/-- The bits the function has left are the bits the machine counts as available. -/
theorem BufferFilled.length_rest (h : BufferFilled s) : s.flow.rest.length = available s := by
  simp [State.flow, length_streamBits, h.length_bytes, available]

/-- The bits a read takes spell the number it returns. -/
theorem bitsValue_of_memRead (h : BufferFilled s) {a n v : Nat} (hm : memRead s.cw a n = some v) :
    Fn.bitsValue (((Fn.streamBits s.cw.bytes).drop a).take n) = v := by
  induction n generalizing v with
  | zero => simpa [Fn.bitsValue, memRead] using hm
  | succ n ih =>
    rw [memRead] at hm
    split at hm
    · rename_i hi b hhi hb
      rw [List.take_add_one, List.getElem?_drop, h.getElem?_streamBits, hb, Fn.bitsValue, Option.toList_some,
        List.foldl_concat]
      exact (congrArg (fun x => 2 * x + b.toNat) (ih hhi)).trans (Option.some.inj hm)
    · cases hm

theorem read_flow (h : BufferFilled s) {n v : Nat} (hn : n ≤ available s)
    (hm : memRead s.cw s.pos n = some v) :
    Fn.read n s.flow = .ok (v, { s with pos := s.pos + n }.flow) := by
  rw [Fn.read, if_neg (by rw [h.length_rest]; omega), State.flow, bitsValue_of_memRead h hm]
  simp [State.flow]

theorem read_flow_short (h : BufferFilled s) {n : Nat} (hn : available s < n) :
    Fn.read n s.flow = Fn.fail .outOfData := by
  rw [Fn.read, if_pos (by rwa [h.length_rest])]

/-! ## What the writes do to the flow -/

theorem map_toNat_ofNat {l : List Nat} (h : ∀ x ∈ l, x < 65536) :
    (l.map (BitVec.ofNat 16)).map BitVec.toNat = l := by
  rw [List.map_map]
  refine (List.map_congr_left fun x hx => ?_).trans (List.map_id l)
  simpa using Nat.mod_eq_of_lt (h x hx)

theorem flow_text {l : List Nat} (h : ∀ x ∈ l, x < 65536) (s : State) :
    { s with text := s.text ++ l.map (BitVec.ofNat 16) }.flow = Fn.put l s.flow := by
  simp only [State.flow, List.map_append, map_toNat_ofNat h, Fn.put]

theorem flow_emit {x : Nat} (h : x < 65536) (s : State) : (emit x s).flow = Fn.put [x] s.flow :=
  flow_text (l := [x]) (by simpa using h) s

theorem flow_emitAll {l : List Nat} (h : ∀ x ∈ l, x < 65536) (s : State) : (emitAll l s).flow = Fn.put l s.flow :=
  flow_text h s

theorem flow_prependTrailer {l : List Nat} (h : ∀ x ∈ l, x < 65536) (s : State) :
    (prependTrailer l s).flow = { s.flow with trl := l ++ s.flow.trl } := by
  simp only [State.flow, prependTrailer, List.map_append, map_toNat_ofNat h]

theorem emitShifted_eq (x : Nat) (s : State) :
    emitShifted x s =
      { s with text := s.text ++ [BitVec.ofNat 16 (if s.ush then x + 128 else x)], ush := false } := by
  unfold emitShifted
  cases hu : s.ush <;> simp [emit, hu]

/-! ## Runs of steps that compute an answer of the function -/

/-- From `s` the machine computes `r` by its steps: it arrives at a state that `Q` relates to the value of `r`, or it takes the abort
with the cause of `r`. No run computes a function that is out of fuel. -/
inductive Computes {α : Type} (Q : α → State → Prop) : State → Except Fn.Halt α → Prop where
  | done {a : α} {s : State} (h : Q a s) : Computes Q s (.ok a)
  | raised {c : Cause} {s t : State} (h : step s = .next (t.abort c)) : Computes Q s (Fn.fail c)
  | step {s t : State} {r : Except Fn.Halt α} (h : step s = .next t) (ht : Computes Q t r) : Computes Q s r

theorem Computes.bind {α β : Type} {P : α → State → Prop} {Q : β → State → Prop} {r : Except Fn.Halt α}
    {f : α → Except Fn.Halt β} (h : Computes P s r) (hf : ∀ a t, P a t → Computes Q t (f a)) : Computes Q s (r >>= f) := by
  induction h with
  | done h => exact hf _ _ h
  | raised h => exact .raised h
  | step h _ ih => exact .step h ih

/-- The run as a number of steps. -/
theorem Computes.exists_steps {α : Type} {P : α → State → Prop} {r : Except Fn.Halt α} (h : Computes P s r) :
    ∃ k t, steps k s = .next t ∧
      ((∃ a, r = .ok a ∧ P a t) ∨ ∃ c u, r = Fn.fail c ∧ t = State.abort u c) := by
  induction h with
  | @done a s h => exact ⟨0, s, rfl, .inl ⟨a, rfl, h⟩⟩
  | @raised c s t h => exact ⟨1, t.abort c, steps_succ_of_next h, .inr ⟨c, t, rfl, rfl⟩⟩
  | step h _ ih =>
    obtain ⟨k, u, hk, hu⟩ := ih
    exact ⟨k + 1, u, (steps_succ_of_next h).trans hk, hu⟩

theorem fn_ok_bind {α β : Type} (a : α) (f : α → Except Fn.Halt β) :
    ((Except.ok a : Except Fn.Halt α) >>= f) = f a := rfl

theorem fn_fail_bind {α β : Type} (c : Cause) (f : α → Except Fn.Halt β) :
    ((Fn.fail c : Except Fn.Halt α) >>= f) = Fn.fail c := rfl

/-- A busy machine that meets the invariant. -/
structure Going (s : State) : Prop where
  inv : Inv s
  busy : s.run = .busy

theorem Going.filled (hs : Going s) : BufferFilled s := hs.inv.1

theorem Going.after (hs : Going s) (h : step s = .next t) (hr : t.run = .busy) : Going t := ⟨step_keeps_inv hs.inv h, hr⟩

theorem Going.err_eq (hs : Going s) : s.err = .clear := by
  obtain ⟨-, -, -, -, -, herr, -⟩ := hs.inv
  simpa [errorRecorded, hs.busy] using herr

/-- The buffer of a going machine has no hole. -/
theorem Going.memRead_ne_none (hs : Going s) {a n : Nat} (hn : a + n ≤ 8 * s.n) : memRead s.cw a n ≠ none := by
  obtain ⟨v, hv⟩ := hs.filled.memRead hn
  simp [hv]

/-- The foot of a decoder's loop: "until Available() <= 0". -/
theorem Going.computes_foot {α : Type} {Q : α → State → Prop} {a : α} {r : Except Fn.Halt α} (hs : Going s)
    (hend : available s = 0 → Computes Q s (.ok a)) (hloop : 0 < available s → Computes Q s r) :
    Computes Q s (if s.flow.rest.length = 0 then .ok a else r) := by
  rw [hs.filled.length_rest]
  split
  · next h => exact hend h
  · next h => exact hloop (Nat.pos_of_ne_zero h)

theorem available_after_read {d : Nat} (h : d ≤ available s) (hn : t.n = s.n) (hp : t.pos = s.pos + d) :
    available t + d = available s := by
  unfold available at *
  omega

/-- Rounds of the dispatch loop that are enough to end: a round of ASCII reads a bit, and after a round of another mode comes one of
ASCII. -/
def roundsLeft (s : State) : Nat := 2 * available s + if s.mode = .ascii then 0 else 1

/-- The decoder has returned to the dispatch loop, with mode and flow as in `r` and fewer than `n` rounds left. -/
def Returned (n : Nat) (r : Mode × Fn.Flow) (s : State) : Prop :=
  Going s ∧ s.phase = .loop ∧ r = (s.mode, s.flow) ∧ roundsLeft s < n

/-- A step that returns mode `m` to the loop. -/
theorem Going.returned {u : State} {m : Mode} {n : Nat} (hs : Going s) (h : step s = .next (u.returnTo m))
    (hr : u.run = .busy) (hn : 2 * available u + (if m = .ascii then 0 else 1) < n) :
    Returned n (m, u.flow) (u.returnTo m) :=
  ⟨hs.after h hr, rfl, rfl, hn⟩

/-- A step by which a decoder other than ASCII returns: MODE becomes ASCII (R143). -/
theorem Going.computes_return {u : State} {n : Nat} (hs : Going s) (h : step s = .next (u.returnTo .ascii))
    (hr : u.run = .busy) (hn : 2 * available u < n) :
    Computes (fun f => Returned n (.ascii, f)) s (.ok u.flow) :=
  .step h (.done (hs.returned h hr hn))

end Sys2Proof.Machine
end

section
/-! PROOFS. The values and the pairs of the triple modes against the pure function (43_base40.md R200 to R229; 44_x12.md R252 to R259):
where the function gives characters and flags the machine shows exactly these, where it gives a cause the machine raises it. -/

namespace Sys2Proof.Machine

variable {s t : State}

/-! ## Values -/

/-- The state after characters and flags have been shown. -/
def State.showing (s : State) (a : Fn.Shown) : State :=
  { s with text := s.text ++ a.out.map (BitVec.ofNat 16), shift := a.shift, ush := a.ush }

theorem showing_nil (s : State) : s.showing ⟨[], s.shift, s.ush⟩ = s := by simp [State.showing]

theorem showing_showing (s : State) (a b : Fn.Shown) :
    (s.showing a).showing b = s.showing ⟨a.out ++ b.out, b.shift, b.ush⟩ := by
  simp [State.showing]

theorem flow_showing {a : Fn.Shown} (h : ∀ x ∈ a.out, x < 65536) (s : State) :
    (s.showing a).flow = Fn.put a.out s.flow :=
  flow_text h s

/-- Values of a pair, in the function and in the machine: the same characters and flags are shown, or one cause is raised. -/
inductive ShownBy (s : State) : Except Cause Fn.Shown → Proc → Prop where
  | shown (a : Fn.Shown) (h : ∀ x ∈ a.out, x < 65536) : ShownBy s (.ok a) (.ok (s.showing a))
  | raised (c : Cause) (t : State) : ShownBy s (.error c) (raise c t)

theorem emitResolved_shownBy {x : Nat} (h : x < 65408) (s : State) :
    ShownBy s (.ok (Fn.shown s.ush x)) (emitResolved x s) := by
  rw [emitResolved, emitShifted_eq]
  exact .shown (Fn.shown s.ush x) (by simp [Fn.shown]; split <;> omega)

theorem emitShifted_shownBy {x : Nat} (h : x < 65408) (hs : s.shift = .s0) :
    ShownBy s (.ok (Fn.shown s.ush x)) (.ok (emitShifted x s)) := by
  have hclear : emitShifted x s = clearShift (emitShifted x s) := by simp [emitShifted_eq, clearShift, hs]
  rw [hclear]
  exact emitResolved_shownBy h s

theorem emit_shownBy {x : Nat} (h : x < 65536) (s : State) :
    ShownBy s (.ok ⟨[x], s.shift, s.ush⟩) (.ok (emit x s)) :=
  .shown ⟨[x], s.shift, s.ush⟩ (by simpa using h)

theorem setShift_shownBy (c : Nat) (s : State) :
    ShownBy s (.ok ⟨[], pendingShift c, s.ush⟩) (.ok (setShift c s)) := by
  have h : setShift c s = s.showing ⟨[], pendingShift c, s.ush⟩ := by simp [setShift, State.showing]
  exact h ▸ .shown _ (by simp)

theorem emitFromTable_shownBy {table : List Nat} (ht : ∀ x ∈ table, x ≤ 136) {miss : Cause} {c ch : Nat}
    (h : table[c]? = some ch) (s : State) :
    ShownBy s (.ok (Fn.shown s.ush ch)) (emitFromTable table miss c s) := by
  have := ht ch (List.mem_of_getElem? h)
  rw [emitFromTable, tableChar, h]
  exact emitResolved_shownBy (x := ch) (by omega) s

/-- Shift state 0: a shift value, or the basic set with the mode's letters (R210 to R212, R220 to R222). -/
theorem shift0_shownBy {letters : Nat} (hl : letters ≤ 83) {third : Nat → Option Nat} (c : Val) (hs : s.shift = .s0) :
    ShownBy s (Fn.shiftValue letters third .s0 s.ush c.toNat)
      (if c.toNat < 3 then .ok (setShift c.toNat s)
       else if c.toNat ≤ 39 then .ok (emitShifted (basicChar letters c.toNat) s)
       else raise .b40Basic s) := by
  rw [Fn.shiftValue]
  by_cases h3 : c.toNat < 3
  · rw [if_pos h3]
    obtain h | h | h : c.toNat = 0 ∨ c.toNat = 1 ∨ c.toNat = 2 := by omega
    all_goals rw [h]
    · exact setShift_shownBy 0 s
    · exact setShift_shownBy 1 s
    · exact setShift_shownBy 2 s
  rw [if_neg h3, if_neg (by omega), if_neg (by omega), if_neg (by omega)]
  by_cases h39 : c.toNat ≤ 39
  · have hbasic := basicChar_le hl (h39.trans (by decide))
    rw [if_pos h39]
    have hset : (if c.toNat = 3 then Except.ok (Fn.shown s.ush 32)
        else if c.toNat ≤ 13 then .ok (Fn.shown s.ush (c.toNat + 44)) else .ok (Fn.shown s.ush (c.toNat + letters)) :
          Except Cause Fn.Shown) = .ok (Fn.shown s.ush (basicChar letters c.toNat)) := by
      rw [basicChar]
      split_ifs <;> rfl
    rw [if_pos h39, hset]
    exact emitShifted_shownBy (by omega) hs
  · rw [if_neg h39, if_neg (by omega), if_neg (by omega), if_neg h39]
    exact .raised _ s

/-- Shift set 2: the function tests the two special values before the table, the machine after it (R214 to R217, R224 to R227). -/
theorem shift2_shownBy (letters : Nat) (third : Nat → Option Nat) (c : Val) (s : State) :
    ShownBy s (Fn.shiftValue letters third .s2 s.ush c.toNat)
      (if c.toNat ≤ 26 then valCS2 c s
       else if c.toNat = 27 then valCS2f s
       else if c.toNat = 30 then valCS2u s
       else valCS2x c s) := by
  rw [Fn.shiftValue]
  by_cases h27 : c.toNat = 27
  · rw [if_pos h27, if_neg (by omega), if_pos h27]
    exact .shown ⟨[29], .s0, s.ush⟩ (by simp)
  by_cases h30 : c.toNat = 30
  · have hup : upperShiftResolved s = .ok (s.showing ⟨[], .s0, true⟩) := by
      simp [upperShiftResolved, setUpperShift, clearShift, State.showing]
    rw [if_neg h27, if_pos h30, if_neg (by omega), if_neg h27, if_pos h30, valCS2u, hup]
    exact .shown _ (by simp)
  rw [if_neg h27, if_neg h30]
  by_cases h26 : c.toNat ≤ 26
  · have hlen : c.toNat < shift2Table.length := Nat.lt_succ_of_le h26
    have hch := List.getElem?_eq_getElem hlen
    rw [if_pos h26, hch]
    exact emitFromTable_shownBy shift2Table_le hch s
  · have hlen : shift2Table.length ≤ c.toNat := not_le.mp h26
    rw [if_neg h26, if_neg h27, if_neg h30, List.getElem?_eq_none hlen]
    exact .raised _ s

theorem interpC40_shownBy (c : Val) (s : State) :
    ShownBy s (Fn.value .c40 s.shift s.ush c.toNat) (interpC40 c s) := by
  have hc := c.isLt
  rw [interpC40, Fn.value]
  cases hs : s.shift with
  | s0 => exact shift0_shownBy (by decide) c hs
  | s1 => exact emitResolved_shownBy (by omega) s
  | s2 => exact shift2_shownBy _ _ c s
  | s3 => exact emitResolved_shownBy (by omega) s

/-- TEXT differs from C40 in the letters of the basic set, and in shift set 3, which is a table (R228, R229). -/
theorem interpText_shownBy (c : Val) (s : State) :
    ShownBy s (Fn.value .text s.shift s.ush c.toNat) (interpText c s) := by
  cases hs : s.shift with
  | s0 =>
    rw [interpText, hs, Fn.value]
    exact shift0_shownBy (by decide) c hs
  | s1 | s2 =>
    rw [interpText_eq_interpC40 c (by simp [hs])]
    have h := interpC40_shownBy c s
    rw [hs] at h
    exact h
  | s3 =>
    rw [interpText, hs, Fn.value, Fn.shiftValue]
    by_cases h31 : c.toNat ≤ 31
    · have hlen : c.toNat < textShift3Table.length := Nat.lt_succ_of_le h31
      have hch := List.getElem?_eq_getElem hlen
      rw [hch]
      simp only [if_pos h31]
      exact emitFromTable_shownBy textShift3Table_le hch s
    · have hlen : textShift3Table.length ≤ c.toNat := not_le.mp h31
      rw [List.getElem?_eq_none hlen]
      simp only [if_neg h31]
      exact .raised _ s

theorem interpX12_eq (c : Val) (s : State) :
    interpX12 c s = match Fn.x12Value c.toNat with
      | .ok ch => .ok (emit ch s)
      | .error e => raise e s := by
  unfold interpX12 Fn.x12Value
  split_ifs <;> rfl

theorem x12Value_lt {c ch : Nat} (hc : c < 64) (h : Fn.x12Value c = .ok ch) : ch < 65536 := by
  unfold Fn.x12Value at h
  split_ifs at h
  all_goals
    cases h
    omega

theorem interpX12_shownBy (c : Val) (s : State) :
    ShownBy s (Fn.value .x12 s.shift s.ush c.toNat) (interpX12 c s) := by
  rw [Fn.value, interpX12_eq]
  cases h : Fn.x12Value c.toNat with
  | ok ch => exact emit_shownBy (x12Value_lt c.isLt h) s
  | error e => exact .raised e s

/-! ## Pairs -/

/-- A value, then the others under the flags it leaves; a raise ends the pair. -/
theorem ShownBy.cons {m : TripleMode} {c : Nat} {cs : List Nat} {p : Proc} {f : State → Proc}
    (h : ShownBy s (Fn.value m s.shift s.ush c) p)
    (hf : ∀ a : Fn.Shown, ShownBy (s.showing a) (Fn.values m a.shift a.ush cs) (f (s.showing a))) :
    ShownBy s (Fn.values m s.shift s.ush (c :: cs)) (p >>= f) := by
  rw [Fn.values]
  generalize Fn.value m s.shift s.ush c = r at h
  cases h with
  | raised e t => exact .raised e t
  | shown a ha =>
    have h := hf a
    dsimp only
    rw [ok_bind]
    generalize Fn.values m a.shift a.ush cs = r at h
    generalize f (s.showing a) = q at h
    cases h with
    | raised e t => exact .raised e t
    | shown b hb =>
      rw [showing_showing]
      exact .shown _ (List.forall_mem_append.mpr ⟨ha, hb⟩)

theorem values_nil_shownBy (m : TripleMode) (s : State) : ShownBy s (Fn.values m s.shift s.ush []) (.ok s) := by
  have h := ShownBy.shown (s := s) ⟨[], s.shift, s.ush⟩ (by simp)
  rwa [showing_nil] at h

theorem ShownBy.last {m : TripleMode} {c : Nat} {p : Proc} (h : ShownBy s (Fn.value m s.shift s.ush c) p) :
    ShownBy s (Fn.values m s.shift s.ush [c]) p := by
  have h := h.cons (f := pure) fun a => values_nil_shownBy m (s.showing a)
  rwa [bind_pure p] at h

theorem pair_of_zero (m : TripleMode) (sh : Shift) (ush : Bool) {b1 b2 : Byte} (h : unpack3 b1 b2 = none) :
    Fn.pair m sh ush b1.toNat b2.toNat = .error .tripleZero := by
  obtain ⟨rfl, rfl⟩ := unpack3_eq_none_iff.mp h
  simp [Fn.pair]

theorem pair_of_unpack3 (m : TripleMode) (sh : Shift) (ush : Bool) {b1 b2 : Byte} {tr : Triple}
    (h : unpack3 b1 b2 = some tr) :
    Fn.pair m sh ush b1.toNat b2.toNat = Fn.values m sh ush [tr.c1.toNat, tr.c2.toNat, tr.c3.toNat] := by
  obtain ⟨h0, rfl⟩ := unpack3_eq_some_iff.mp h
  have hw := pairWord_lt b1 b2
  have h0' : b1.toNat * 256 + b2.toNat ≠ 0 := h0
  rw [Fn.pair]
  dsimp only
  rw [if_neg h0', tripleOf]
  unfold pairWord at hw ⊢
  congr 1
  simp only [BitVec.toNat_ofNat, List.cons.injEq, and_true]
  omega

/-- A pair of the machine, with any interpretation of its values that shows what the function's does. -/
theorem runPair_shownBy {m : TripleMode} {interp : Val → State → Proc}
    (hi : ∀ c s, ShownBy s (Fn.value m s.shift s.ush c.toNat) (interp c s)) {b1 b2 : Byte} {tr : Triple}
    (h : unpack3 b1 b2 = some tr) (s : State) :
    ShownBy { s with v := BitVec.ofNat 16 (pairWord b1 b2 - 1), c := tr }
      (Fn.pair m s.shift s.ush b1.toNat b2.toNat) (runPair interp b1 b2 s) := by
  rw [pair_of_unpack3 m _ _ h, runPair, loadTriple, h]
  simp only [ok_bind]
  refine .cons (hi _ _) fun a => .cons (hi _ _) fun b => .last (hi _ _)

/-- What a pair does, in the function and in the machine: its characters leave the reads and the phase as they are. -/
inductive PairEffect (s : State) : Except Cause Fn.Shown → Host.Outcome State Fault Refusal → Prop where
  | shown {a : Fn.Shown} (t : State) (hf : t.flow = Fn.put a.out s.flow) (hsh : t.shift = a.shift) (hu : t.ush = a.ush)
    (hp : t.phase = s.phase) (hr : t.run = s.run) (ha : available t = available s) : PairEffect s (.ok a) (.next t)
  | raised (c : Cause) (t : State) : PairEffect s (.error c) (.next (t.abort c))

theorem ShownBy.pairEffect {v : BitVec 16} {tr : Triple} {r : Except Cause Fn.Shown} {p : Proc}
    (h : ShownBy { s with v := v, c := tr } r p) : PairEffect s r (settle p) := by
  cases h with
  | shown a ha => exact .shown _ (flow_showing ha _) rfl rfl rfl rfl rfl
  | raised c t => exact .raised c t

theorem runPair_effect {m : TripleMode} {interp : Val → State → Proc}
    (hi : ∀ c s, ShownBy s (Fn.value m s.shift s.ush c.toNat) (interp c s)) (b1 b2 : Byte) (s : State) :
    PairEffect s (Fn.pair m s.shift s.ush b1.toNat b2.toNat) (settle (runPair interp b1 b2 s)) := by
  cases h : unpack3 b1 b2 with
  | some tr => exact (runPair_shownBy hi h s).pairEffect
  | none =>
    rw [pair_of_zero m _ _ h, runPair, loadTriple, h]
    exact .raised .tripleZero s

theorem exec_pairUnit_effect (m : TripleMode) (b1 b2 : Byte) (s : State) :
    PairEffect s (Fn.pair m s.shift s.ush b1.toNat b2.toNat) (exec (pairUnit m b1 b2) s) := by
  cases m with
  | c40 => exact runPair_effect interpC40_shownBy b1 b2 s
  | text => exact runPair_effect interpText_shownBy b1 b2 s
  | x12 => exact runPair_effect interpX12_shownBy b1 b2 s

end Sys2Proof.Machine
end

section
/-! PROOFS. The step machine computes the pure function Decode (00_scope.md R5; 41_dispatch.md R140, R148): each loop of a decoder is
computed by a run of steps, and the dispatch loop composes the runs. -/

namespace Sys2Proof.Machine

variable {s t : State}

/-! ## ASCII (42_ascii.md) -/

/-- What an ASCII unit does, in the function and in the machine. -/
inductive AsciiEffect (s : State) :
    Except Fn.Halt (Fn.Flow × Bool × Option Mode) → Host.Outcome State Fault Refusal → Prop where
  | stays {f : Fn.Flow} {u : Bool} (t : State) (hf : t.flow = f) (hu : t.ush = u) (hp : t.phase = s.phase) (hr : t.run = s.run)
    (ha : available t = available s) : AsciiEffect s (.ok (f, u, none)) (.next t)
  | returns (m : Mode) : AsciiEffect s (.ok (s.flow, s.ush, some m)) (.next (s.returnTo m))
  | raises (c : Cause) : AsciiEffect s (Fn.fail c) (.next (s.abort c))

/-- The two maps are followed row by row. -/
theorem AsciiEffect.ite {p : Prop} [Decidable p] {r r' : Except Fn.Halt (Fn.Flow × Bool × Option Mode)} {i j : Instr}
    (hi : p → AsciiEffect s r (exec i s)) (hj : ¬ p → AsciiEffect s r' (exec j s)) :
    AsciiEffect s (if p then r else r') (exec (if p then i else j) s) := by
  split
  · exact hi ‹_›
  · exact hj ‹_›

theorem AsciiEffect.idle (s : State) : AsciiEffect s (.ok (s.flow, s.ush, none)) (.next s) :=
  .stays s rfl rfl rfl rfl rfl

theorem aLit_effect {cw : Nat} (h0 : cw ≠ 0) (h : cw ≤ 128) (s : State) :
    AsciiEffect s (.ok (Fn.put [if s.ush then cw + 127 else cw - 1] s.flow, false, none))
      (exec (.aLit (BitVec.ofNat 7 (cw - 1))) s) := by
  have hch : (BitVec.ofNat 7 (cw - 1)).toNat = cw - 1 := by rw [BitVec.toNat_ofNat]; omega
  have hsum : cw - 1 + 128 = cw + 127 := by omega
  rw [exec, execALit, hch, ← hsum, emitShifted_eq]
  exact .stays _ (flow_emit (by split <;> omega) s) rfl rfl rfl rfl

theorem aDig2_effect {cw : Nat} (h1 : 130 ≤ cw) (h : cw ≤ 229) (s : State) :
    AsciiEffect s (.ok (Fn.put [48 + (cw - 130) / 10, 48 + (cw - 130) % 10] s.flow, s.ush, none))
      (exec (.aDig2 (BitVec.ofNat 7 (cw - 130))) s) := by
  have hdd : (BitVec.ofNat 7 (cw - 130)).toNat = cw - 130 := by rw [BitVec.toNat_ofNat]; omega
  rw [exec, execADig2, hdd]
  exact .stays _ (flow_emitAll (by simp [digitChars]; omega) s) rfl rfl rfl rfl

theorem macro_effect {hd : List Nat} (h : hd = macro05Header ∨ hd = macro06Header) (s : State) :
    AsciiEffect s (.ok ({ Fn.put hd s.flow with trl := macroTrailer ++ s.flow.trl }, s.ush, none))
      (.next (prependTrailer macroTrailer (emitAll hd s))) := by
  refine .stays _ ?_ rfl rfl rfl rfl
  rw [flow_prependTrailer (by decide), flow_emitAll fun x hx => by have := macroHeader_le h x hx; omega]
  rfl

theorem aEnd254_effect (hs : BufferFilled s) :
    AsciiEffect s (if s.flow.rest.length = 0 then .ok (s.flow, s.ush, none) else Fn.fail .ascii254)
      (exec .aEnd254 s) := by
  rw [exec, execAEnd254, hs.length_rest]
  split
  · exact .idle s
  · exact .raises .ascii254

theorem asciiEffect (s : State) (hs : BufferFilled s) (cw : Nat) :
    AsciiEffect s (Fn.asciiUnit cw s.ush s.flow) (exec (decodeAscii cw) s) := by
  unfold Fn.asciiUnit decodeAscii
  refine .ite (fun _ => .raises .asciiZero) fun h0 => .ite (fun h => aLit_effect h0 h s) fun h128 => ?_
  refine .ite (fun _ => .returns .pad) fun h129 => .ite (fun h => aDig2_effect (by omega) h s) fun _ => ?_
  refine .ite (fun _ => .returns .c40) fun _ => .ite (fun _ => .returns .b256) fun _ => ?_
  refine .ite (fun _ => .stays _ (flow_emit (by decide) s) rfl rfl rfl rfl) fun _ => ?_
  refine .ite (fun _ => .idle s) fun _ => .ite (fun _ => .idle s) fun _ => ?_
  refine .ite (fun _ => .stays (setUpperShift s) rfl rfl rfl rfl rfl) fun _ => ?_
  refine .ite (fun _ => macro_effect (.inl rfl) s) fun _ => .ite (fun _ => macro_effect (.inr rfl) s) fun _ => ?_
  refine .ite (fun _ => .returns .x12) fun _ => .ite (fun _ => .returns .text) fun _ => ?_
  refine .ite (fun _ => .returns .edf) fun _ => .ite (fun _ => .idle s) fun _ => ?_
  refine .ite (fun _ => .raises .asciiReserved) fun _ => .ite (fun _ => aEnd254_effect hs) fun _ => ?_
  exact .raises .ascii255

/-- The effect of a codeword, then the foot of the loop; `hloop` is what the rounds after it compute. -/
theorem AsciiEffect.computes {u : State} {k n : Nat} {r : Except Fn.Halt (Fn.Flow × Bool × Option Mode)} (hs : Going s)
    (h : AsciiEffect u r (step s)) (hp : u.phase = .ascii) (hr : u.run = .busy) (hn : 2 * available u + 1 < n)
    (hloop : ∀ t, Going t → t.phase = .ascii → 0 < available t → available t = available u →
      Computes (Returned n) t (Fn.asciiSegment k t.ush t.flow)) :
    Computes (Returned n) s (do
      let (f, ush, ret) ← r
      match ret with
      | some m => .ok (m, f)
      | none => if f.rest.length = 0 then .ok (.ascii, f) else Fn.asciiSegment k ush f) := by
  generalize ho : step s = o at h
  cases h with
  | stays t hflow hush hphase hrun hav =>
    subst hflow hush
    have ht : Going t := hs.after ho (hrun.trans hr)
    have hpt := hphase.trans hp
    refine .step ho (ht.computes_foot (fun h0 => ?_) fun h0 => hloop t ht hpt h0 hav)
    have hret := step_of_quiet ht.busy ((fetch_ascii hpt).trans (if_pos h0))
    exact .step hret (.done (ht.returned hret ht.busy (by rw [if_pos rfl]; omega)))
  | returns m => exact .step ho (.done (hs.returned ho hr (by split <;> omega)))
  | raises c => exact .raised ho

/-- `AsciiSegment` is computed by one step for each codeword, and one more where the bits end. -/
theorem asciiSegment_computes {k n : Nat} (hs : Going s) (hp : s.phase = .ascii) (h0 : 0 < available s)
    (hk : available s < k) (hn : 2 * available s ≤ n) :
    Computes (Returned n) s (Fn.asciiSegment k s.ush s.flow) := by
  induction k generalizing s with
  | zero => omega
  | succ k ih =>
    have hf := fetch_ascii hp
    rw [Fn.asciiSegment]
    rcases fetchAscii_cases s with ⟨ha, -⟩ | ⟨-, h8, e⟩ | ⟨h8, cw, -, hm, e⟩ | ⟨h8, hm, -⟩
    · omega
    · rw [read_flow_short hs.filled h8, fn_fail_bind]
      exact .raised (step_of_stop hs.busy (hf.trans e))
    · rw [read_flow hs.filled h8 hm, fn_ok_bind]
      have heff := asciiEffect { s with pos := s.pos + 8, b1 := BitVec.ofNat 8 cw } hs.filled cw
      rw [← step_of_unit hs.busy (hf.trans e)] at heff
      have hav := available_after_read (t := { s with pos := s.pos + 8, b1 := BitVec.ofNat 8 cw }) h8 rfl rfl
      exact heff.computes hs hp hs.busy (by omega) fun t ht hpt h0 ha => ih ht hpt h0 (by omega) (by omega)
    · exact absurd hm (hs.memRead_ne_none (le_of_available (by decide) h8))

/-! ## The triple modes (43_base40.md) -/

/-- The effect of a pair, then the foot of the loop; `hloop` is what the rounds after it compute. -/
theorem computes_of_pairEffect {u : State} {m : TripleMode} {k n : Nat} {r : Except Cause Fn.Shown} (hs : Going s)
    (hp : u.phase = .triple m) (hr : u.run = .busy) (hn : 2 * available u < n)
    (hloop : ∀ t, Going t → t.phase = .triple m → 0 < available t → available t = available u →
      Computes (fun f => Returned n (.ascii, f)) t (Fn.tripleSegment m k t.shift t.ush t.flow)) :
    PairEffect u r (step s) →
      Computes (fun f => Returned n (.ascii, f)) s
        (match r with
        | .error c => Fn.fail c
        | .ok a =>
          let f := Fn.put a.out u.flow
          if f.rest.length = 0 then .ok f else Fn.tripleSegment m k a.shift a.ush f) := by
  intro h
  generalize ho : step s = o at h
  cases h with
  | shown t hflow hshift hush hphase hrun hav =>
    have ht : Going t := hs.after ho (hrun.trans hr)
    have hpt := hphase.trans hp
    dsimp only
    rw [← hflow, ← hshift, ← hush]
    refine .step ho (ht.computes_foot (fun h0 => ?_) fun h0 => hloop t ht hpt h0 hav)
    exact ht.computes_return (step_of_quiet ht.busy ((fetch_triple hpt).trans (if_pos h0))) ht.busy (by omega)
  | raised c t => exact .raised ho

/-- `TripleSegment` is computed by one step for each pair, and one more where the segment ends. -/
theorem tripleSegment_computes {m : TripleMode} {k n : Nat} (hs : Going s) (hp : s.phase = .triple m)
    (h0 : 0 < available s) (hk : available s < k) (hn : 2 * available s < n) :
    Computes (fun f => Returned n (.ascii, f)) s (Fn.tripleSegment m k s.shift s.ush s.flow) := by
  induction k generalizing s with
  | zero => omega
  | succ k ih =>
    have hf := fetch_triple hp
    rw [Fn.tripleSegment, hs.filled.length_rest]
    rcases fetchTriple_cases m s with ⟨ha, e⟩ | ⟨-, h8, e⟩ | ⟨h8, hm, e⟩ |
      ⟨h8, x1, hx, hm, hsecond⟩ | ⟨h8, hm, -⟩
    · rw [if_pos (by omega)]
      exact hs.computes_return (step_of_quiet hs.busy (hf.trans e)) hs.busy hn
    · rw [if_neg (by omega), read_flow_short hs.filled h8, fn_fail_bind]
      exact .raised (step_of_stop hs.busy (hf.trans e))
    · have hret := (step_of_unit hs.busy (hf.trans e)).trans (exec_unlatchUnit m _)
      have hav := available_after_read (t := { s with pos := s.pos + 8, b1 := 254 }) h8.le rfl rfl
      rw [if_neg (by omega), read_flow hs.filled h8.le hm, fn_ok_bind]
      exact hs.computes_return (u := { s with pos := s.pos + 8, b1 := 254 }) hret hs.busy (by omega)
    · have hav := available_after_read (t := { s with pos := s.pos + 8 }) h8.le rfl rfl
      rw [if_neg (by omega), read_flow hs.filled h8.le hm, fn_ok_bind]
      dsimp only
      rw [if_neg hx]
      obtain ⟨h16, e⟩ | ⟨h16, x2, hm2, e⟩ | ⟨h16, hm2, -⟩ := hsecond
      · rw [read_flow_short (s := { s with pos := s.pos + 8 }) hs.filled (by omega), fn_fail_bind]
        exact .raised (step_of_stop hs.busy (hf.trans e))
      · rw [read_flow (s := { s with pos := s.pos + 8 }) hs.filled (by omega) hm2, fn_ok_bind]
        have hav := available_after_read (t := { s with pos := s.pos + 16, b1 := x1, b2 := x2 }) h16 rfl rfl
        refine computes_of_pairEffect (u := { s with pos := s.pos + 16, b1 := x1, b2 := x2 }) hs hp hs.busy (by omega)
          (fun t ht hpt h0 ha => ih ht hpt h0 (by omega) (by omega)) ?_
        rw [step_of_unit hs.busy (hf.trans e)]
        exact exec_pairUnit_effect m x1 x2 _
      · exact absurd hm2 (hs.memRead_ne_none (by have := le_of_available (by decide) h16; omega))
    · exact absurd hm (hs.memRead_ne_none (le_of_available (by decide) h8.le))

/-! ## Sixbit (45_sixbit.md) -/

/-- The character of a Sixbit value that is no unlatch (R272, R273), as the function says it. -/
def sixbitChar (e : Nat) : Nat := if e < 32 then e + 64 else e

theorem sixbitLow_eq {e : Nat} (he : e < 32) : sixbitLow (BitVec.ofNat 6 e) = e + 64 := by
  revert e
  decide

theorem sixbitHigh_eq {e : Nat} (he : e < 64) : sixbitHigh (BitVec.ofNat 6 e) = e := by
  simpa [sixbitHigh] using he

/-- A Sixbit value that is no unlatch emits its character, and the group goes on to its next place. -/
theorem exec_decodeSixbit {e : Nat} (he : e < 64) (h : e ≠ 31) (s : State) {k : Fin 4} (hp : s.phase = .sixbit k) :
    exec (decodeSixbit e) s = .next { emit (sixbitChar e) s with phase := .sixbit (k + 1) } := by
  have hnext : nextPlace (emit (sixbitChar e) s) = { emit (sixbitChar e) s with phase := .sixbit (k + 1) } := by
    rw [nextPlace, emit_phase, hp]
  rw [← hnext, decodeSixbit, if_neg (by exact h), sixbitChar]
  by_cases hlt : e < 32
  · rw [if_neg (by rw [sixbitBit5_iff he]; omega), if_pos hlt, exec, execELo, sixbitLow_eq hlt]
  · rw [if_pos ((sixbitBit5_iff he).mpr (by omega)), if_neg hlt, exec, execEHi, sixbitHigh_eq he]

/-- The function's two branches for a value that is no unlatch, as one. -/
theorem sixbitGroup_put (j e : Nat) (f : Fn.Flow) :
    (if e < 32 then Fn.sixbitGroup j (Fn.put [e + 64] f) else Fn.sixbitGroup j (Fn.put [e] f)) =
      Fn.sixbitGroup j (Fn.put [sixbitChar e] f) := by
  rw [sixbitChar]
  split_ifs <;> rfl

/-- The place of the group before which `j` values are left, the first place again after the last value. -/
def placeOfLeft (j : Nat) : Fin 4 := Fin.ofNat 4 (4 - j)

theorem placeOfLeft_succ {j : Nat} (h : j < 4) : placeOfLeft (j + 1) + 1 = placeOfLeft j := by
  revert j
  decide

theorem placeOfLeft_eq_zero {j : Nat} (h : j < 4) (h0 : placeOfLeft (j + 1) = 0) : j + 1 = 4 := by
  revert j
  decide

/-- The values of a group have been read: the unlatch was met and the segment has returned, or the group is complete with at most `b` bits
left. -/
def GroupRead (n b : Nat) (r : Bool × Fn.Flow) (s : State) : Prop :=
  if r.1 then Returned n (.ascii, r.2) s
  else Going s ∧ s.phase = .sixbit 0 ∧ s.flow = r.2 ∧ available s ≤ b

/-- The `j` values left in a group are computed by `j` steps, or fewer where the unlatch comes. -/
theorem sixbitGroup_computes {j n b : Nat} (hj : j ≤ 4) (hs : Going s) (hp : s.phase = .sixbit (placeOfLeft j))
    (h16 : j = 4 → 16 < available s) (hb : available s ≤ b + 6 * j) (hn : 2 * available s < n) :
    Computes (GroupRead n b) s (Fn.sixbitGroup j s.flow) := by
  induction j generalizing s with
  | zero => exact .done ⟨hs, hp, rfl, hb⟩
  | succ j ih =>
    have hf := fetch_sixbit hp
    rw [Fn.sixbitGroup]
    rcases fetchSixbit_cases (placeOfLeft (j + 1)) s with ⟨⟨hk, ha⟩, -⟩ | ⟨-, h6, e⟩ | ⟨-, h6, v, hv, hm, e⟩ |
      ⟨-, h6, hm, -⟩
    · have := h16 (placeOfLeft_eq_zero hj hk)
      omega
    · rw [read_flow_short hs.filled h6, fn_fail_bind]
      exact .raised (step_of_stop hs.busy (hf.trans e))
    · rw [read_flow hs.filled h6 hm, fn_ok_bind]
      dsimp only
      have hav := available_after_read (t := { s with pos := s.pos + 6, e := BitVec.ofNat 6 v }) h6 rfl rfl
      have hstep := step_of_unit hs.busy (hf.trans e)
      by_cases h31 : v = 31
      · subst h31
        exact .step hstep (.done (hs.returned hstep hs.busy (by rw [if_pos rfl]; omega)))
      · rw [exec_decodeSixbit hv h31 _ (by exact hp), placeOfLeft_succ hj] at hstep
        have hchar : sixbitChar v < 65536 := by unfold sixbitChar; split <;> omega
        rw [if_neg h31, sixbitGroup_put, ← flow_emit hchar]
        have hav' := available_after_read
          (t := { emit (sixbitChar v) { s with pos := s.pos + 6, e := BitVec.ofNat 6 v } with phase := .sixbit (placeOfLeft j) })
          h6 rfl rfl
        exact .step hstep (ih (by omega) (hs.after hstep hs.busy) rfl (by omega) (by omega) (by omega))
    · exact absurd hm (hs.memRead_ne_none (le_of_available (by decide) h6))

/-- `SixbitSegment` is computed group by group. -/
theorem sixbitSegment_computes {k n : Nat} (hs : Going s) (hp : s.phase = .sixbit 0)
    (hk : available s < k) (hn : 2 * available s < n) :
    Computes (fun f => Returned n (.ascii, f)) s (Fn.sixbitSegment k s.flow) := by
  induction k generalizing s with
  | zero => omega
  | succ k ih =>
    rw [Fn.sixbitSegment, hs.filled.length_rest]
    split
    · next h16 =>
      exact hs.computes_return (step_of_quiet hs.busy ((fetch_sixbit hp).trans (if_pos ⟨rfl, h16⟩))) hs.busy hn
    · next h16 =>
      have hgroup := sixbitGroup_computes (j := 4) (b := available s - 24) le_rfl hs hp (by omega) (by omega) hn
      refine hgroup.bind ?_
      rintro ⟨unlatched, f⟩ t ht
      cases unlatched with
      | true => exact .done ht
      | false =>
        obtain ⟨ht, hpt, rfl, hb⟩ := ht
        refine ht.computes_foot (fun h0 => ?_) fun h0 => ih ht hpt (by omega) (by omega)
        exact ht.computes_return (step_of_quiet ht.busy ((fetch_sixbit hpt).trans (if_pos ⟨rfl, by omega⟩))) ht.busy (by omega)

/-! ## RawBytes (46_rawbytes.md) -/

theorem unmask_eq {w : Nat} (h : w < 256) (p : Nat) : Fn.unmask w p = (derandomize (BitVec.ofNat 8 w) p).toNat := by
  rw [derandomize_eq_sub, BitVec.toNat_sub, toNat_ofNat8 h, toNat_ofNat8 (by unfold pseudoRandom; omega)]
  unfold Fn.unmask pseudoRandom
  omega

theorem rawPosition_eq (r : Rounding) (pos : Nat) : Fn.rawSegment.codewordPositionAt r pos = codewordPositionAt r pos := by
  cases r <;> rfl

theorem flow_appendSegment (s : State) :
    (appendSegment s).flow = Fn.put (s.segbuf.map BitVec.toNat)
      { s.flow with segs := s.flow.segs ++ [s.segbuf.map BitVec.toNat] } := by
  have htext : (s.segbuf.map latin1).map BitVec.toNat = s.segbuf.map BitVec.toNat := by
    rw [List.map_map]
    refine List.map_congr_left fun b _ => ?_
    have := b.isLt
    simp [latin1]
    omega
  simp only [State.flow, appendSegment, List.map_append, htext, List.map_cons, List.map_nil, Fn.put]

/-- The counted bytes are computed by one step each, and one step more appends the segment. -/
theorem rawRun_computes {j n : Nat} (hs : Going s) (hp : s.phase = .rawData) (hj : s.cnt = s.segbuf.length + j)
    (hn : 2 * available s < n) :
    Computes (fun r => Returned n (.ascii, Fn.put r.1 { r.2 with segs := r.2.segs ++ [r.1] })) s
      (Fn.rawRun j s.p (s.segbuf.map BitVec.toNat) s.flow) := by
  induction j generalizing s with
  | zero =>
    have hret := step_of_quiet hs.busy ((fetch_rawData hp).trans (if_pos hj.le))
    refine .step hret (.done ?_)
    rw [← flow_appendSegment]
    exact hs.returned hret hs.busy hn
  | succ j ih =>
    have hf := fetch_rawData hp
    rw [Fn.rawRun]
    rcases fetchData_cases s with ⟨h, -⟩ | ⟨-, h8, e⟩ | ⟨-, h8, w, hm, e⟩ | ⟨-, h8, hm, -⟩
    · omega
    · rw [read_flow_short hs.filled h8, fn_fail_bind]
      exact .raised (step_of_stop hs.busy (hf.trans e))
    · rw [read_flow hs.filled h8 hm, fn_ok_bind]
      dsimp only
      have hstep := (step_of_unit hs.busy (hf.trans e)).trans (exec_bData _ _)
      rw [unmask_eq (memRead_lt hm)]
      have hseg (b : Byte) : s.segbuf.map BitVec.toNat ++ [b.toNat] = (s.segbuf ++ [b]).map BitVec.toNat := by simp
      rw [hseg]
      refine .step hstep (ih (hs.after hstep hs.busy) hp (by simp only [List.length_append, List.length_singleton]; omega) ?_)
      simp only [available] at hn ⊢
      omega
    · exact absurd hm (hs.memRead_ne_none (le_of_available (by decide) h8))

/-- The counted run that a header begins, with its segment. -/
theorem rawFinish_computes {n : Nat} (hs : Going s) (hp : s.phase = .rawData) (hseg : s.segbuf = [])
    (hn : 2 * available s < n) :
    Computes (fun f => Returned n (.ascii, f)) s (Fn.rawFinish s.cnt s.p s.flow) := by
  have hrun := rawRun_computes (j := s.cnt) hs hp (by simp [hseg]) hn
  rw [hseg] at hrun
  exact hrun.bind fun _ _ h => .done h

/-- The length a one-byte header gives: 0 stands for the rest of the buffer (R294, R295). -/
theorem exec_decodeHeader (d1 : Byte) (s : State) :
    exec (decodeHeader d1.toNat) s =
      .next { s with cnt := if d1.toNat = 0 then available s / 8 else d1.toNat, segbuf := [], phase := .rawData } := by
  rw [decodeHeader]
  split
  · next h0 => exact congrArg settle (startRun_nonneg (Int.natCast_nonneg _) s)
  · next h0 =>
    rw [exec, BitVec.ofNat_toNat, BitVec.setWidth_eq]
    exact congrArg settle (startRun_nonneg (Int.natCast_nonneg _) s)

theorem longLength_toNat {d1 : Byte} (d2 : Byte) (h : 250 ≤ d1.toNat) :
    (longLength d1 d2).toNat = 250 * (d1.toNat - 249) + d2.toNat := by
  unfold longLength
  omega

/-- Inside the header P is the position of the next byte, as the function computes it. -/
theorem Going.p_eq_of_rawHeader (hs : Going s) (hp : s.phase = .rawHeader) :
    Fn.rawSegment.codewordPositionAt cwposRound s.flow.pos = s.p := by
  obtain ⟨-, -, -, -, -, -, hrun, -⟩ := hs.inv
  rw [rawPosition_eq, (runTracked_rawHeader_iff hp).mp hrun]
  rfl

/-- `RawBytesSegment` is computed by a step for its header, then the counted run. -/
theorem rawSegment_computes {n : Nat} (hs : Going s) (hp : s.phase = .rawHeader) (hn : 2 * available s < n) :
    Computes (fun f => Returned n (.ascii, f)) s (Fn.rawSegment s.flow) := by
  have hf := fetch_rawHeader hp
  rw [Fn.rawSegment, hs.p_eq_of_rawHeader hp]
  rcases fetchHeader_cases s with ⟨h8, e⟩ | ⟨h8, hm, -⟩ |
    ⟨h8, w, hm, d1, hd1, ⟨h250, e⟩ | ⟨h250, h16, e⟩ | ⟨-, h16, hm2, -⟩ | ⟨h250, h16, w2, hm2, d2, hd2, e⟩⟩
  · rw [read_flow_short hs.filled h8, fn_fail_bind]
    exact .raised (step_of_stop hs.busy (hf.trans e))
  · exact absurd hm (hs.memRead_ne_none (le_of_available (by decide) h8))
  · rw [read_flow hs.filled h8 hm, fn_ok_bind]
    dsimp only
    have hstep := (step_of_unit hs.busy (hf.trans e)).trans (exec_decodeHeader d1 _)
    rw [unmask_eq (memRead_lt hm), ← hd1]
    have hrun := rawFinish_computes (n := n) (hs.after hstep hs.busy) rfl rfl (by simp only [available] at hn ⊢; omega)
    refine .step hstep ?_
    rw [BufferFilled.length_rest (s := { s with pos := s.pos + 8 }) hs.filled, if_pos h250]
    split_ifs at hrun ⊢ <;> exact hrun
  · have hav := available_after_read (t := { s with pos := s.pos + 8 }) h8 rfl rfl
    rw [read_flow hs.filled h8 hm, fn_ok_bind]
    dsimp only
    rw [unmask_eq (memRead_lt hm), ← hd1, if_neg (by omega), if_neg (by omega),
      read_flow_short (s := { s with pos := s.pos + 8 }) hs.filled (by omega), fn_fail_bind]
    exact .raised (step_of_stop hs.busy (hf.trans e))
  · exact absurd hm2 (hs.memRead_ne_none (by have := le_of_available (by decide) h16; omega))
  · have hav := available_after_read (t := { s with pos := s.pos + 8 }) h8 rfl rfl
    rw [read_flow hs.filled h8 hm, fn_ok_bind]
    dsimp only
    rw [unmask_eq (memRead_lt hm), ← hd1, if_neg (by omega), if_neg (by omega),
      read_flow (s := { s with pos := s.pos + 8 }) hs.filled (by omega) hm2, fn_ok_bind]
    dsimp only
    rw [unmask_eq (memRead_lt hm2), ← hd2, ← longLength_toNat d2 h250]
    have hstep := (step_of_unit hs.busy (hf.trans e)).trans (exec_bLen2 d2 h250 _)
    exact .step hstep (rawFinish_computes (hs.after hstep hs.busy) rfl rfl (by simp only [available] at hn ⊢; omega))

/-! ## The dispatch loop (R140) -/

/-- One decoder, entered from the loop, with at least one bit left. -/
theorem segment_computes {fuel : Nat} (hs : Going s) (hp : s.phase = .loop) (hm : s.mode ≠ .pad) (h0 : 0 < available s)
    (hfuel : available s < fuel) : Computes (Returned (roundsLeft s)) s (Fn.segment fuel s.mode s.flow) := by
  have hloop := step_of_loop hs.busy hp
  have hother : s.mode ≠ .ascii → 2 * available s < roundsLeft s := fun h => by simp [roundsLeft, h]
  have htriple (m : TripleMode) (h : s.mode = m.mode) : Computes (Returned (roundsLeft s)) s
      (do let f ← Fn.tripleSegment m fuel .s0 false s.flow; .ok (.ascii, f)) := by
    rw [fetchLoop_triple h0 h] at hloop
    have hseg := tripleSegment_computes (m := m) (hs.after hloop hs.busy) rfl h0 hfuel (hother (h ▸ tripleMode_ne_ascii m))
    exact .step hloop (hseg.bind fun _ _ h => .done h)
  cases h : s.mode with
  | ascii =>
    rw [fetchLoop_ascii h0 h] at hloop
    exact .step hloop (asciiSegment_computes (hs.after hloop hs.busy) rfl h0 hfuel (Nat.le_add_right _ _))
  | c40 => exact htriple .c40 h
  | text => exact htriple .text h
  | x12 => exact htriple .x12 h
  | edf =>
    rw [fetchLoop_edf h0 h] at hloop
    have hseg := sixbitSegment_computes (hs.after hloop hs.busy) rfl hfuel (hother (by simp [h]))
    exact .step hloop (hseg.bind fun _ _ h => .done h)
  | b256 =>
    rw [fetchLoop_b256 h0 h] at hloop
    have hseg := rawSegment_computes (hs.after hloop hs.busy) rfl (hother (by simp [h]))
    exact .step hloop (hseg.bind fun _ _ h => .done h)
  | pad => exact absurd h hm

/-- The machine has completed without an error, with the function's flow at its end. -/
structure Completed (f : Fn.Flow) (s : State) : Prop where
  done : s.run = .done
  err : s.err = .clear
  flow : s.flow = f

theorem flow_complete (s : State) : (complete s).flow = { s.flow with text := s.flow.text ++ s.flow.trl } := by
  rw [complete_eq]
  simp only [State.flow, List.map_append]

/-- The loop of `Decode` is computed decoder by decoder. -/
theorem dispatch_computes {fuel k : Nat} (hs : Going s) (hp : s.phase = .loop) (hfuel : available s < fuel)
    (hk : roundsLeft s < k) : Computes Completed s (Fn.dispatch fuel k s.mode s.flow) := by
  induction k generalizing s with
  | zero => omega
  | succ k ih =>
    rw [Fn.dispatch, hs.filled.length_rest]
    split
    · next hend =>
      have hloop := step_of_loop hs.busy hp
      rw [fetchLoop_of_end hend] at hloop
      exact .step hloop (.done ⟨rfl, hs.err_eq, flow_complete s⟩)
    · next hend =>
      obtain ⟨hm, h0⟩ := not_or.mp hend
      refine (segment_computes hs hp hm (Nat.pos_of_ne_zero h0) hfuel).bind ?_
      rintro _ t ⟨ht, hpt, rfl, hlt⟩
      refine ih ht hpt ?_ (by omega)
      unfold roundsLeft at hlt
      split_ifs at hlt <;> omega

theorem flow_invoked (bs : List Byte) (s : State) : (invoked bs s).flow = ⟨0, Fn.streamBits bs, [], [], []⟩ := by
  have h : (invoked bs s).cw.bytes = bs := bytes_ofBytes bs
  rw [State.flow, h]
  rfl

theorem outcomeOf_of_completed {f : Fn.Flow} (h : Completed f s) : outcomeOf s = .ok ⟨f.text, f.segs⟩ := by
  obtain ⟨-, herr, rfl⟩ := h
  rw [outcomeOf, herr]
  rfl

/-- `Decode` is computed from the launch on. -/
theorem decodeBuffer_computes (bs : List Byte) (s : State) :
    Computes (fun out t => t.run = .done ∧ outcomeOf t = .ok out) (invoked bs s) (Fn.decodeBuffer bs) := by
  have hgoing : Going (invoked bs s) := ⟨invoked_inv bs s, rfl⟩
  have hbits : available (invoked bs s) = (Fn.streamBits bs).length := (length_streamBits bs).symm
  have hrounds : roundsLeft (invoked bs s) = 2 * available (invoked bs s) := rfl
  have hrun := dispatch_computes (fuel := (Fn.streamBits bs).length + 1) (k := 2 * ((Fn.streamBits bs).length + 1))
    hgoing rfl (by omega) (by omega)
  rw [flow_invoked] at hrun
  exact hrun.bind fun f t h => .done ⟨h.done, outcomeOf_of_completed h⟩

end Sys2Proof.Machine

open Sys2Proof Sys2Proof.Machine

/-- Settles O58: each decoder's loop is computed by a run of steps, the invariant keeps the runs from stopping, and the function's fuel is
enough because each round of a loop reads bits or is followed by one that does. -/
theorem stepMachineComputesDecode : Obligations.StepMachineComputesDecode := by
  intro bs s
  obtain ⟨k, t, hsteps, ⟨out, hout, hdone, hok⟩ | ⟨c, u, hout, rfl⟩⟩ := (decodeBuffer_computes bs s).exists_steps
  · exact ⟨k, t, hsteps, .inl hdone, hok.trans hout.symm⟩
  · exact ⟨k, u.abort c, hsteps, .inr rfl, hout.symm⟩

end

section
/-! PROOFS. The family 42_ascii.md: the ASCII units (R161 to R180), the frame of every unit (R161 to R180, R202 to R229, R251 to R260,
R271 to R273, R294 to R297, R356), and the end tests of the segments (R181, R200, R274). -/

namespace Sys2Proof.Machine

variable {s t u : State}

/-! ## From a codeword to its unit -/

theorem decode_of_isUnitOf {c : Ctx} {v : Nat} {i : Instr} (h : IsUnitOf c v i) : decode c v = .ok i := by
  obtain ⟨hwf, rfl, rfl⟩ := h
  exact decode_encode i hwf

theorem aLit_isUnitOf {cw : Nat} (h1 : 1 ≤ cw) (h : cw ≤ 128) :
    IsUnitOf .ascii cw (.aLit (BitVec.ofNat 7 (cw - 1))) := by
  refine ⟨rfl, rfl, ?_⟩
  rw [encode, BitVec.toNat_ofNat]
  omega

theorem aDig2_isUnitOf {dd : BitVec 7} (h : dd.toNat ≤ 99) : IsUnitOf .ascii (dd.toNat + 130) (.aDig2 dd) :=
  ⟨inRange_iff.mpr ⟨Nat.zero_le _, h⟩, rfl, rfl⟩

theorem aInv242_isUnitOf {cw : Nat} (h1 : 242 ≤ cw) (h : cw ≤ 253) :
    IsUnitOf .ascii cw (.aInv242 (BitVec.ofNat 8 cw)) := by
  have hcw : (BitVec.ofNat 8 cw).toNat = cw := toNat_ofNat8 (by omega)
  exact ⟨inRange_iff.mpr ⟨hcw.symm ▸ h1, hcw.symm ▸ h⟩, rfl, hcw⟩

/-! ## The ASCII units that read the state -/

theorem exec_aLit (ch : BitVec 7) (s : State) :
    exec (.aLit ch) s =
      .next { s with
        text := s.text ++ [BitVec.ofNat 16 (if s.ush then ch.toNat + 128 else ch.toNat)], ush := false } :=
  congrArg _ (emitShifted_eq ch.toNat s)

theorem exec_aEnd254_of_end (h : available s = 0) : exec .aEnd254 s = .next s := by
  rw [exec, execAEnd254, if_pos h, settle_ok]

theorem exec_aEnd254_of_bits (h : available s ≠ 0) : exec .aEnd254 s = .next (s.abort .ascii254) := by
  rw [exec, execAEnd254, if_neg h, settle_raise]

theorem digit_toNat {d : Nat} (h : d ≤ 9) : (BitVec.ofNat 16 (48 + d)).toNat = 48 + d := by
  rw [BitVec.toNat_ofNat]
  omega

/-! ## What a unit writes -/

/-- The units that write MODE: latches, Pad, unlatches (41_dispatch.md R145). -/
def modeUnits : List Instr := [.aPad, .aLc40, .aLb256, .aLx12, .aLtxt, .aLedf, .cUnl, .tUnl, .xUnl, .eUnl]

/-- The units that write CNT: the RawBytes headers (R294 to R296). -/
def IsHeader (i : Instr) : Prop := i = .bLen0 ∨ (∃ d1, i = .bLen1 d1) ∨ ∃ d1 d2, i = .bLen2 d1 d2

/-- What a unit can have written, one case for each kind of write that the rules know: the state after `i` has run in `s`, but for an abort,
which comes on top (`exec_writes`). -/
inductive Writes (s : State) : Instr → State → Prop where
  | nothing (i : Instr) : Writes s i s
  | characters {i : Instr} (hi : i.format = .A8) (l : List Char16) : Writes s i { s with text := s.text ++ l }
  | literal (ch : BitVec 7) (x : Char16) : Writes s (.aLit ch) { s with text := s.text ++ [x], ush := false }
  | upperShift : Writes s .aUsh { s with ush := true }
  | trailer {i : Instr} (hi : i = .aM05 ∨ i = .aM06) (l l' : List Char16) :
    Writes s i { s with text := s.text ++ l, trl := l' ++ s.trl }
  | mode {i : Instr} (hi : i ∈ modeUnits) (m : Mode) : Writes s i (s.returnTo m)
  | value {i : Instr} (hi : i.format = .V40) (l : List Char16) (sh : Shift) (f : Bool) :
    Writes s i { s with text := s.text ++ l, shift := sh, ush := f }
  | pair (m : TripleMode) (b1 b2 : Byte) (v : BitVec 16) (c : Triple) (l : List Char16) (sh : Shift) (f : Bool) :
    Writes s (pairUnit m b1 b2) { s with v := v, c := c, text := s.text ++ l, shift := sh, ush := f }
  | sixbit {i : Instr} (hi : i.format = .S6) (l : List Char16) (ph : Phase) :
    Writes s i { s with text := s.text ++ l, phase := ph }
  | header {i : Instr} (hi : IsHeader i) (k : Nat) : Writes s i { s with cnt := k, segbuf := [], phase := .rawData }
  | data (b : Byte) : Writes s (.bData b) { s with segbuf := s.segbuf ++ [b] }

variable {i : Instr}

/-- The outcome is that of a unit that writes and goes on, or writes and takes the abort. -/
def WritesOrAborts (s : State) (i : Instr) (o : Host.Outcome State Fault Refusal) : Prop :=
  ∃ u, Writes s i u ∧ (o = .next u ∨ ∃ c, o = .next (u.abort c))

theorem Writes.goesOn (h : Writes s i t) : WritesOrAborts s i (.next t) := ⟨t, h, .inl rfl⟩

theorem writesOrAborts_abort (i : Instr) (c : Cause) (s : State) : WritesOrAborts s i (.next (s.abort c)) :=
  ⟨s, .nothing i, .inr ⟨c, rfl⟩⟩

/-! ### The operations of the values -/

theorem emit_writes (hi : i.format = .V40) (x : Nat) (s : State) : Writes s i (emit x s) :=
  .value hi [BitVec.ofNat 16 x] s.shift s.ush

theorem emitShifted_writes (hi : i.format = .V40) (x : Nat) (s : State) : Writes s i (emitShifted x s) := by
  rw [emitShifted_eq]
  exact .value hi _ s.shift false

theorem setShift_writes (hi : i.format = .V40) (c : Nat) (s : State) : Writes s i (setShift c s) := by
  simpa [setShift] using Writes.value (s := s) hi [] (pendingShift c) s.ush

theorem emitResolved_writes (hi : i.format = .V40) (x : Nat) (s : State) :
    WritesOrAborts s i (settle (emitResolved x s)) := by
  rw [emitResolved, emitShifted_eq]
  exact (Writes.value hi _ .s0 false).goesOn

theorem emitFromTable_writes (hi : i.format = .V40) (table : List Nat) (miss : Cause) (c : Nat) (s : State) :
    WritesOrAborts s i (settle (emitFromTable table miss c s)) := by
  unfold emitFromTable tableChar
  split
  · exact emitResolved_writes hi _ s
  · exact writesOrAborts_abort i miss s

theorem emitFnc1Resolved_writes (hi : i.format = .V40) (s : State) :
    WritesOrAborts s i (settle (emitFnc1Resolved s)) :=
  (Writes.value hi [BitVec.ofNat 16 fnc1Char] .s0 s.ush).goesOn

theorem upperShiftResolved_writes (hi : i.format = .V40) (s : State) :
    WritesOrAborts s i (settle (upperShiftResolved s)) := by
  simpa [upperShiftResolved, clearShift, setUpperShift] using (Writes.value (s := s) hi [] .s0 true).goesOn

/-! ### The other contexts -/

theorem PairShows.writes (h : PairShows s t) (m : TripleMode) (b1 b2 : Byte) : Writes s (pairUnit m b1 b2) t := by
  obtain ⟨v, c, l, sh, f, -, -, rfl⟩ := h
  exact .pair m b1 b2 v c l sh f

theorem exec_pairUnit_writes (m : TripleMode) (b1 b2 : Byte) (s : State) :
    WritesOrAborts s (pairUnit m b1 b2) (exec (pairUnit m b1 b2) s) := by
  rcases exec_pairUnit_cases m b1 b2 s with ⟨u, hu, e⟩ | ⟨u, c, hu, -, e⟩ <;> rw [e]
  · exact (hu.writes m b1 b2).goesOn
  · exact ⟨u, hu.writes m b1 b2, .inr ⟨c, rfl⟩⟩

theorem nextPlace_emit_writes (hi : i.format = .S6) (x : Nat) (s : State) : Writes s i (nextPlace (emit x s)) := by
  unfold nextPlace
  split
  · exact .sixbit hi [BitVec.ofNat 16 x] _
  · exact .sixbit hi [BitVec.ofNat 16 x] s.phase

theorem startRun_writes (hi : IsHeader i) (len : Int) (s : State) : WritesOrAborts s i (settle (startRun len s)) := by
  unfold startRun
  split
  · exact writesOrAborts_abort i .b256Length s
  · exact (Writes.header hi len.toNat).goesOn

/-- Everything a unit can write, row by row of the opcode table. -/
theorem exec_writes (i : Instr) (s : State) : WritesOrAborts s i (exec i s) := by
  cases i
  case aLit ch => rw [exec_aLit]; exact (Writes.literal ch _).goesOn
  case aDig2 dd => exact (Writes.characters rfl ((digitChars dd.toNat).map (BitVec.ofNat 16))).goesOn
  case aFnc1 => exact (Writes.characters rfl [BitVec.ofNat 16 fnc1Char]).goesOn
  case aSapp | aRdrp | aEci => exact (Writes.nothing _).goesOn
  case aUsh => exact Writes.upperShift.goesOn
  case aM05 | aM06 => exact (Writes.trailer (by decide) _ _).goesOn
  case aPad | aLc40 | aLb256 | aLx12 | aLtxt | aLedf | cUnl | tUnl | xUnl | eUnl =>
    exact (Writes.mode (by decide) _).goesOn
  case aEnd254 =>
    by_cases h : available s = 0
    · rw [exec_aEnd254_of_end h]; exact (Writes.nothing _).goesOn
    · rw [exec_aEnd254_of_bits h]; exact writesOrAborts_abort _ _ s
  case aInv0 | aInv242 | aInv255 | cBasx | tBasx | cS2x | tS2x | tS3x | xInv => exact writesOrAborts_abort _ _ s
  case cPair b1 b2 => exact exec_pairUnit_writes .c40 b1 b2 s
  case tPair b1 b2 => exact exec_pairUnit_writes .text b1 b2 s
  case xPair b1 b2 => exact exec_pairUnit_writes .x12 b1 b2 s
  case cSh c | tSh c => exact (setShift_writes rfl _ s).goesOn
  case cBas c | tBas c => exact (emitShifted_writes rfl _ s).goesOn
  case cS1 c | tS1 c | cS3 c => exact emitResolved_writes rfl _ s
  case cS2 c | tS2 c | tS3 c => exact emitFromTable_writes rfl _ _ _ s
  case cS2f | tS2f => exact emitFnc1Resolved_writes rfl s
  case cS2u | tS2u => exact upperShiftResolved_writes rfl s
  case xCr | xStar | xGt | xSp | xDig | xLet => exact (emit_writes rfl _ s).goesOn
  case eLo e | eHi e => exact (nextPlace_emit_writes rfl _ s).goesOn
  case bLen0 => exact startRun_writes (.inl rfl) (available s / 8 : Nat) s
  case bLen1 d1 => exact startRun_writes (.inr (.inl ⟨d1, rfl⟩)) d1.toNat s
  case bLen2 d1 d2 => exact startRun_writes (.inr (.inr ⟨d1, d2, rfl⟩)) (longLength d1 d2) s
  case bData b => exact (Writes.data b).goesOn

theorem writes_of_exec (h : exec i s = .next t) : ∃ u, Writes s i u ∧ (t = u ∨ ∃ c, t = u.abort c) := by
  obtain ⟨u, hu, ho⟩ := exec_writes i s
  simp only [h, Host.Outcome.next.injEq] at ho
  exact ⟨u, hu, ho⟩

/-! ## The frame, element by element -/

/-- The elements that no unit writes. -/
theorem Writes.untouched (h : Writes s i u) :
    SameBuffer s u ∧ (∀ a : Nat, u.cw.read a = s.cw.read a) ∧ u.segs = s.segs ∧ u.b1 = s.b1 ∧ u.b2 = s.b2 ∧
      u.e = s.e ∧ u.d1 = s.d1 ∧ u.d2 = s.d2 ∧ u.p = s.p ∧ u.raw = s.raw := by
  cases h <;> exact ⟨⟨rfl, rfl, rfl, rfl⟩, fun _ => rfl, rfl, rfl, rfl, rfl, rfl, rfl, rfl, rfl⟩

/-- With SIXBIT_REALIGN = 0 the unlatch too leaves the cursor. -/
theorem Writes.pos_eq (h : Writes s i u) : u.pos = s.pos := by cases h <;> rfl

theorem Writes.run_eq (h : Writes s i u) : u.run = s.run := by cases h <;> rfl

theorem Writes.err_eq (h : Writes s i u) : u.err = s.err := by cases h <;> rfl

theorem Writes.of_trl_ne (h : Writes s i u) (hne : u.trl ≠ s.trl) : i = .aM05 ∨ i = .aM06 := by
  cases h with
  | trailer hi => exact hi
  | _ => exact absurd rfl hne

theorem Writes.of_mode_ne (h : Writes s i u) (hne : u.mode ≠ s.mode) : i ∈ modeUnits := by
  cases h with
  | mode hi => exact hi
  | _ => exact absurd rfl hne

theorem header_format (hi : IsHeader i) : i.format = .H8 ∨ i.format = .H16 := by
  obtain rfl | ⟨d1, rfl⟩ | ⟨d1, d2, rfl⟩ := hi
  · exact .inl rfl
  · exact .inl rfl
  · exact .inr rfl

theorem pairUnit_format (m : TripleMode) (b1 b2 : Byte) : (pairUnit m b1 b2).format = .P16 := by cases m <;> rfl

theorem Writes.of_phase_ne (h : Writes s i u) (hne : u.phase ≠ s.phase) :
    i ∈ [Instr.aPad, .aLc40, .aLb256, .aLx12, .aLtxt, .aLedf, .cUnl, .tUnl, .xUnl] ∨
      i.format = .S6 ∨ i.format = .H8 ∨ i.format = .H16 := by
  cases h with
  | mode hi => revert i; decide
  | sixbit hi => exact .inr (.inl hi)
  | header hi => exact .inr (.inr (header_format hi))
  | _ => exact absurd rfl hne

theorem Writes.of_triple_ne (h : Writes s i u) (hne : u.v ≠ s.v ∨ u.c ≠ s.c) : ∃ m b1 b2, i = pairUnit m b1 b2 := by
  cases h with
  | pair m b1 b2 => exact ⟨m, b1, b2, rfl⟩
  | _ => exact hne.elim (absurd rfl) (absurd rfl)

theorem Writes.of_cnt_ne (h : Writes s i u) (hne : u.cnt ≠ s.cnt) : IsHeader i := by
  cases h with
  | header hi => exact hi
  | _ => exact absurd rfl hne

theorem Writes.of_segbuf_ne (h : Writes s i u) (hne : u.segbuf ≠ s.segbuf) :
    i.format = .H8 ∨ i.format = .H16 ∨ i.format = .D8 := by
  cases h with
  | header hi => exact (header_format hi).imp_right .inl
  | data b => exact .inr (.inr rfl)
  | _ => exact absurd rfl hne

theorem Writes.of_shift_ne (h : Writes s i u) (hne : u.shift ≠ s.shift) : i.format = .V40 ∨ i.format = .P16 := by
  cases h with
  | value hi => exact .inl hi
  | pair m b1 b2 => exact .inr (pairUnit_format m b1 b2)
  | _ => exact absurd rfl hne

/-- Who writes USH, and what the two ASCII units among them leave there (R180). -/
theorem Writes.of_ush_ne (h : Writes s i u) (hne : u.ush ≠ s.ush) :
    (i = .aUsh ∧ u.ush = true) ∨ (∃ ch, i = .aLit ch ∧ u.ush = false) ∨ i.format = .V40 ∨ i.format = .P16 := by
  cases h with
  | upperShift => exact .inl ⟨rfl, rfl⟩
  | literal ch => exact .inr (.inl ⟨ch, rfl, rfl⟩)
  | value hi => exact .inr (.inr (.inl hi))
  | pair m b1 b2 => exact .inr (.inr (.inr (pairUnit_format m b1 b2)))
  | _ => exact absurd rfl hne

theorem Writes.of_text_ne (h : Writes s i u) (hne : u.text ≠ s.text) :
    i.format = .A8 ∨ i.format = .V40 ∨ i.format = .P16 ∨ i.format = .S6 := by
  cases h with
  | characters hi => exact .inl hi
  | literal ch => exact .inl rfl
  | trailer hi => exact .inl (by obtain rfl | rfl := hi <;> rfl)
  | value hi => exact .inr (.inl hi)
  | pair m b1 b2 => exact .inr (.inr (.inl (pairUnit_format m b1 b2)))
  | sixbit hi => exact .inr (.inr (.inr hi))
  | _ => exact absurd rfl hne

/-- RUN and ERR are written by an abort alone (60_exceptions.md R356). -/
theorem Writes.of_run_or_err_ne (h : Writes s i u) (ht : t = u ∨ ∃ c, t = u.abort c) (hne : t.run ≠ s.run ∨ t.err ≠ s.err) :
    t.run = .error ∧ ∃ c, t.err = ⟨.format, some c⟩ := by
  obtain rfl | ⟨c, rfl⟩ := ht
  · exact hne.elim (absurd h.run_eq) (absurd h.err_eq)
  · exact ⟨rfl, c, rfl⟩

/-! ## The end tests of the segments (R181, R200, R274) -/

theorem fetchAscii_of_end (h : available s = 0) : fetchAscii s = .ok (.quiet (s.returnTo .ascii)) := by
  rw [fetchAscii, if_pos h]

theorem fetchTriple_of_end (m : TripleMode) (h : available s = 0 ∨ available s = 8) :
    fetchTriple m s = .ok (.quiet (s.returnTo .ascii)) := by
  obtain h | h := h <;> simp [fetchTriple, h]

theorem fetchSixbit_of_end (h : available s ≤ 16) : fetchSixbit 0 s = .ok (.quiet (s.returnTo .ascii)) := by
  rw [fetchSixbit, if_pos ⟨rfl, h⟩]

end Sys2Proof.Machine

open Sys2Proof Sys2Proof.Machine

/-- Settles O43: every unit writes as one of the cases of `Writes` says, and an abort on top of it writes RUN and ERR alone. -/
theorem unitsChangeOnlyWhatTheirRulesName : Obligations.UnitsChangeOnlyWhatTheirRulesName := by
  intro i s t h
  obtain ⟨u, hu, ht⟩ := writes_of_exec h
  have hush : u.ush ≠ s.ush → i = .aUsh ∨ (∃ ch, i = .aLit ch) ∨ i.format = .V40 ∨ i.format = .P16 := fun hne =>
    (hu.of_ush_ne hne).imp And.left (Or.imp_left fun ⟨ch, hch⟩ => ⟨ch, hch.1⟩)
  have hrun := hu.of_run_or_err_ne ht
  obtain rfl | ⟨c, rfl⟩ := ht <;>
    exact ⟨hu.untouched, absurd hu.pos_eq, hu.of_trl_ne, hu.of_mode_ne, hu.of_phase_ne, hu.of_triple_ne, hu.of_cnt_ne,
      hu.of_segbuf_ne, hu.of_shift_ne, hush, hu.of_text_ne, hrun⟩

/-- Settles O16: of the units that write USH, values and pairs are no ASCII units, and an abort leaves USH. -/
theorem onlyLiteralsConsumeAsciiUpperShift : Obligations.OnlyLiteralsConsumeAsciiUpperShift := by
  intro i s t hctx _ h hne
  obtain ⟨u, hu, ht⟩ := writes_of_exec h
  have hush : t.ush = u.ush := by obtain rfl | ⟨c, rfl⟩ := ht <;> rfl
  have hformat : i.format = .A8 := congrArg Ctx.format hctx
  rw [hush] at hne ⊢
  obtain hset | hclear | hvalue | hpair := hu.of_ush_ne hne
  · exact .inl hset
  · exact .inr hclear
  · cases hformat.symm.trans hvalue
  · cases hformat.symm.trans hpair

/-- Settles O13: the literal is written by `EmitShifted`, and `ch + 128` is `cw + 127`. -/
theorem asciiLiteralEmitsItsCharacter : Obligations.AsciiLiteralEmitsItsCharacter :=
  ⟨fun _ h1 h => decode_of_isUnitOf (aLit_isUnitOf h1 h), exec_aLit⟩

/-- Settles O14: a number up to 99 has two decimal digits, its quotient and its remainder by 10. -/
theorem asciiDigitPairEmitsTwoDigits : Obligations.AsciiDigitPairEmitsTwoDigits := by
  intro cw h1 h
  obtain ⟨dd, hdd⟩ : ∃ dd : BitVec 7, dd.toNat = cw - 130 :=
    ⟨BitVec.ofNat 7 (cw - 130), by rw [BitVec.toNat_ofNat]; omega⟩
  obtain rfl : cw = dd.toNat + 130 := by omega
  refine ⟨dd, decode_of_isUnitOf (aDig2_isUnitOf (by omega)), hdd, fun s => ⟨_, _, rfl, ?_⟩⟩
  have hx := digit_toNat (d := dd.toNat / 10) (by omega)
  have hy := digit_toNat (d := dd.toNat % 10) (by omega)
  rw [hx, hy]
  omega

/-- Settles O15: each unit is what its codeword decodes to, and its meaning is one write or none. -/
theorem fnc1UpperShiftAndMarkers : Obligations.Fnc1UpperShiftAndMarkers :=
  ⟨decode_encode .aFnc1 rfl, decode_encode .aSapp rfl, decode_encode .aRdrp rfl, decode_encode .aUsh rfl,
    decode_encode .aEci rfl, fun _ => ⟨rfl, rfl, rfl, rfl, rfl⟩⟩

/-- Settles O17: both units are the header's characters, then the trailer at the front. -/
theorem macrosEmitHeaderAndDeferTrailer : Obligations.MacrosEmitHeaderAndDeferTrailer :=
  ⟨decode_encode .aM05 rfl, decode_encode .aM06 rfl, fun _ => ⟨rfl, rfl⟩⟩

/-- Settles O18: the six units are `State.returnTo` with their modes. -/
theorem latchesAndPadReturnTheirMode : Obligations.LatchesAndPadReturnTheirMode :=
  ⟨decode_encode .aPad rfl, decode_encode .aLc40 rfl, decode_encode .aLb256 rfl, decode_encode .aLx12 rfl,
    decode_encode .aLtxt rfl, decode_encode .aLedf rfl, fun _ => ⟨rfl, rfl, rfl, rfl, rfl, rfl⟩⟩

/-- Settles O19: three units raise on every state, `A.END254` by its test of the bits left. -/
theorem illegalAsciiCodewordsRaise : Obligations.IllegalAsciiCodewordsRaise :=
  ⟨decode_encode .aInv0 rfl, decode_encode .aEnd254 rfl, decode_encode .aInv255 rfl,
    fun _ h1 h => decode_of_isUnitOf (aInv242_isUnitOf h1 h),
    fun _ => ⟨rfl, rfl, fun _ => rfl, exec_aEnd254_of_end, exec_aEnd254_of_bits⟩⟩

/-- Settles O39: in each of the three procedures the end test comes before the read. -/
theorem segmentsEndOnTooFewBits : Obligations.SegmentsEndOnTooFewBits := by
  rintro s hb (⟨hp, h⟩ | ⟨m, hp, h⟩ | ⟨hp, h⟩)
  · exact step_of_quiet hb ((fetch_ascii hp).trans (fetchAscii_of_end h))
  · exact step_of_quiet hb ((fetch_triple hp).trans (fetchTriple_of_end m h))
  · exact step_of_quiet hb ((fetch_sixbit hp).trans (fetchSixbit_of_end h))

end

section
/-! PROOFS. The family 43_base40.md: the value rules of C40 and TEXT (R207 to R229), the unlatches (R202, R203, R251), and a pair as the run of the
units of its three values (R204 to R206, R252). -/

namespace Sys2Proof.Machine

variable {s t : State}

/-! ## The characters of the sets (R97, R99, R100) -/

theorem basicChar_of_digit (letters : Nat) {c : Nat} (h4 : 4 ≤ c) (h : c ≤ 13) : basicChar letters c = c + 44 := by
  rw [basicChar, if_neg (by omega), if_pos h]

theorem basicChar_of_letter (letters : Nat) {c : Nat} (h : 14 ≤ c) : basicChar letters c = c + letters := by
  rw [basicChar, if_neg (by omega), if_neg (by omega)]

/-- SHIFT2_TABLE in closed form (R99). -/
def punctuation (c : Nat) : Nat := if c ≤ 14 then c + 33 else if c ≤ 21 then c + 43 else c + 69

/-- TEXT_SHIFT3_TABLE in closed form (R100). -/
def textShift3Char (c : Nat) : Nat := if c = 0 then 96 else if c ≤ 26 then c + 64 else c + 96

theorem shift2Table_getElem? {c : Nat} (h : c ≤ 26) : shift2Table[c]? = some (punctuation c) := by
  revert c
  decide

theorem textShift3Table_getElem? {c : Nat} (h : c ≤ 31) : textShift3Table[c]? = some (textShift3Char c) := by
  revert c
  decide

/-! ## The operations the value rules share (R207, R210) -/

theorem pendingShift_code {c : Nat} (h : c ≤ 2) : (pendingShift c).code.toNat = c + 1 := by
  revert c
  decide

/-- `EmitShifted(ch); SHIFT <- 0`. -/
theorem settle_emitResolved (x : Nat) (s : State) :
    settle (emitResolved x s) =
      .next { s with
        text := s.text ++ [BitVec.ofNat 16 (if s.ush then x + 128 else x)], ush := false, shift := .s0 } := by
  rw [emitResolved, emitShifted_eq, settle_ok, clearShift]

/-- `EmitShifted(table[c]); SHIFT <- 0`. -/
theorem settle_emitFromTable {table : List Nat} {miss : Cause} {c x : Nat} (h : table[c]? = some x) (s : State) :
    settle (emitFromTable table miss c s) =
      .next { s with
        text := s.text ++ [BitVec.ofNat 16 (if s.ush then x + 128 else x)], ush := false, shift := .s0 } := by
  rw [emitFromTable, tableChar, h, ok_bind, settle_emitResolved]

/-! ## The value rule of a mode, and the unit a value decodes to -/

/-- `Interp40(m, c)` or `InterpX12(c)` (R206, R252). -/
def valueRule (m : TripleMode) : Val → State → Proc :=
  match m with
  | .c40 => interpC40
  | .text => interpText
  | .x12 => interpX12

/-- The unit of a value of a pair, under the shift state of `s` where the mode has one. -/
def valueUnit (m : TripleMode) (s : State) (c : Val) : Instr :=
  match m with
  | .c40 => decodeBase40 .c40 s.shift c.toNat
  | .text => decodeBase40 .text s.shift c.toNat
  | .x12 => decodeX12 c.toNat

theorem exec_pairUnit (m : TripleMode) (b1 b2 : Byte) (s : State) :
    exec (pairUnit m b1 b2) s = settle (runPair (valueRule m) b1 b2 s) := by
  cases m <;> rfl

theorem valueRule_shownBy (m : TripleMode) (c : Val) (s : State) :
    ShownBy s (Fn.value m s.shift s.ush c.toNat) (valueRule m c s) := by
  cases m with
  | c40 => exact interpC40_shownBy c s
  | text => exact interpText_shownBy c s
  | x12 => exact interpX12_shownBy c s

theorem exec_decodeC40 (c : Val) (s : State) : exec (decodeC40 s.shift c.toNat) s = settle (interpC40 c s) := by
  unfold decodeC40 interpC40
  rw [BitVec.ofNat_toNat, BitVec.setWidth_eq]
  cases s.shift with
  | s0 => dsimp only; split_ifs <;> rfl
  | s1 => rfl
  | s2 => dsimp only; split_ifs <;> rfl
  | s3 => rfl

theorem exec_decodeText (c : Val) (s : State) : exec (decodeText s.shift c.toNat) s = settle (interpText c s) := by
  unfold decodeText interpText
  rw [BitVec.ofNat_toNat, BitVec.setWidth_eq]
  cases s.shift with
  | s0 => dsimp only; split_ifs <;> rfl
  | s1 => rfl
  | s2 => dsimp only; split_ifs <;> rfl
  | s3 => dsimp only; split_ifs <;> rfl

theorem exec_decodeX12 (c : Val) (s : State) : exec (decodeX12 c.toNat) s = settle (interpX12 c s) := by
  unfold decodeX12 interpX12
  rw [BitVec.ofNat_toNat, BitVec.setWidth_eq]
  split_ifs <;> rfl

/-- The decoder and the value rule make the same choice. -/
theorem exec_valueUnit (m : TripleMode) (c : Val) (s : State) :
    exec (valueUnit m s c) s = settle (valueRule m c s) := by
  cases m with
  | c40 => exact exec_decodeC40 c s
  | text => exact exec_decodeText c s
  | x12 => exact exec_decodeX12 c s

/-! ## A pair runs its values in order -/

theorem andThen_assoc (o : Host.Outcome State Fault Refusal) (f g : State → Host.Outcome State Fault Refusal) :
    andThen (andThen o f) g = andThen o fun t => andThen (f t) g := by
  cases o with
  | fault r => rfl
  | refused r => rfl
  | next t =>
    by_cases h : t.run = .busy
    · simp only [andThen, if_pos h]
    · simp only [andThen, if_neg h]

/-- A value leaves RUN and C[] as they are, so that what follows it runs, on the same triple; an abort ends the pair. -/
theorem ShownBy.settle_bind {r : Except Cause Fn.Shown} {p : Proc} {f : State → Proc}
    {g : State → Host.Outcome State Fault Refusal} (h : ShownBy s r p) (hb : s.run = .busy)
    (hfg : ∀ t, t.run = .busy → t.c = s.c → settle (f t) = g t) : settle (p >>= f) = andThen (settle p) g := by
  cases h with
  | raised c t => rfl
  | shown a _ =>
    have hrun : (s.showing a).run = .busy := hb
    rw [ok_bind, settle_ok, andThen, if_pos hrun]
    exact hfg _ hrun rfl

/-- The values of the loaded triple, by the rules of `runPair` and by the units they decode to. -/
theorem settle_values (m : TripleMode) (hb : s.run = .busy) :
    settle (valueRule m s.c.c1 s >>= fun s1 => valueRule m s1.c.c2 s1 >>= fun s2 => valueRule m s2.c.c3 s2) =
      andThen
        (andThen (exec (valueUnit m s s.c.c1) s) fun s1 => exec (valueUnit m s1 s.c.c2) s1)
        fun s2 => exec (valueUnit m s2 s.c.c3) s2 := by
  rw [andThen_assoc, exec_valueUnit]
  refine (valueRule_shownBy m _ s).settle_bind hb fun s1 hb1 hc1 => ?_
  rw [exec_valueUnit, ← hc1]
  refine (valueRule_shownBy m _ s1).settle_bind hb1 fun s2 _ hc2 => ?_
  rw [exec_valueUnit, hc2]

theorem exec_pairUnit_of_unpack3 (m : TripleMode) {b1 b2 : Byte} {tr : Triple} (h : unpack3 b1 b2 = some tr)
    (hb : s.run = .busy) {s0 : State} (hs0 : s0 = { s with v := BitVec.ofNat 16 (pairWord b1 b2 - 1), c := tr }) :
    exec (pairUnit m b1 b2) s =
      andThen
        (andThen (exec (valueUnit m s0 tr.c1) s0) fun s1 => exec (valueUnit m s1 tr.c2) s1)
        fun s2 => exec (valueUnit m s2 tr.c3) s2 := by
  subst hs0
  rw [exec_pairUnit, runPair, loadTriple, h]
  exact settle_values m hb

theorem exec_pairUnit_of_zero (m : TripleMode) {b1 b2 : Byte} (h : unpack3 b1 b2 = none) (s : State) :
    exec (pairUnit m b1 b2) s = .next (s.abort .tripleZero) := by
  rw [exec_pairUnit, runPair, loadTriple, h]
  rfl

/-! ## A pair against the pure function -/

theorem ShownBy.settle_of_ok {a : Fn.Shown} {p : Proc} (h : ShownBy s (.ok a) p) :
    settle p = .next (s.showing a) := by
  cases h
  rfl

theorem PairEffect.of_error {e : Cause} {o : Host.Outcome State Fault Refusal} (h : PairEffect s (.error e) o) :
    ∃ t : State, o = .next (t.abort e) := by
  cases h with
  | raised _ t => exact ⟨t, rfl⟩

/-- What a pair leaves unchanged, an abort included. -/
theorem exec_pairUnit_keeps {m : TripleMode} {b1 b2 : Byte} (h : exec (pairUnit m b1 b2) s = .next t) :
    SameBuffer s t ∧ t.pos = s.pos ∧ t.mode = s.mode ∧ t.phase = s.phase ∧ t.trl = s.trl ∧ t.segs = s.segs := by
  have hcases := exec_pairUnit_cases m b1 b2 s
  simp only [h, Host.Outcome.next.injEq] at hcases
  obtain ⟨u, hu, rfl⟩ | ⟨u, e, hu, -, rfl⟩ := hcases
  all_goals
    obtain ⟨v, c, l, sh, f, -, -, rfl⟩ := hu
    exact ⟨⟨rfl, rfl, rfl, rfl⟩, rfl, rfl, rfl, rfl, rfl⟩

end Sys2Proof.Machine

open Sys2Proof Sys2Proof.Machine

/-- Settles O29: the unit of a value is its value rule, and the rules run in order under `settle` as the units do under `andThen`. -/
theorem pairRunsItsValuesInOrder : Obligations.PairRunsItsValuesInOrder := by
  intro m b1 b2 s hb
  refine ⟨fun tr h => ?_, fun h => exec_pairUnit_of_zero m h s⟩
  cases m <;> exact exec_pairUnit_of_unpack3 _ h hb rfl

/-- Settles O30: value by value the machine shows what the function does; what an abort leaves unchanged is the frame of a pair. -/
theorem pairEffectIsThePureFunctions : Obligations.PairEffectIsThePureFunctions := by
  intro m b1 b2 s
  refine ⟨fun a ha => ?_, fun e he => ?_⟩
  · cases hu : unpack3 b1 b2 with
    | none => cases (pair_of_zero m _ _ hu).symm.trans ha
    | some tr =>
      have h := runPair_shownBy (valueRule_shownBy m) hu s
      rw [ha] at h
      exact ⟨tr, rfl, (exec_pairUnit m b1 b2 s).trans h.settle_of_ok⟩
  · have heffect := exec_pairUnit_effect m b1 b2 s
    rw [he] at heffect
    obtain ⟨t, ht⟩ := heffect.of_error
    exact ⟨t.abort e, ht, rfl, rfl, exec_pairUnit_keeps ht⟩

/-- Settles O20: the three unlatches are `State.returnTo` with ASCII. -/
theorem unlatchByteReturnsToAscii : Obligations.UnlatchByteReturnsToAscii :=
  fun m => ⟨decode_unlatch m, exec_unlatchUnit m⟩

/-- Settles O21: the shift state selected is `pendingShift`. -/
theorem shiftValuesSelectTheNextSet : Obligations.ShiftValuesSelectTheNextSet := by
  intro c h
  have hwf : inRange 0 2 c = true := inRange_iff.mpr ⟨Nat.zero_le _, h⟩
  exact ⟨decode_encode (.cSh c) hwf, decode_encode (.tSh c) hwf, pendingShift c.toNat, pendingShift_code h,
    fun _ => ⟨rfl, rfl⟩⟩

/-- Settles O22: both units write their `basicChar` by `EmitShifted`. -/
theorem basicSetsEmitSpaceDigitsLetters : Obligations.BasicSetsEmitSpaceDigitsLetters := by
  intro c h3 h39
  have hwf : inRange 3 39 c = true := inRange_iff.mpr ⟨h3, h39⟩
  refine ⟨decode_encode (.cBas c) hwf, decode_encode (.tBas c) hwf, fun s =>
    ⟨basicChar upperLetters c.toNat, basicChar lowerLetters c.toNat, congrArg _ (emitShifted_eq _ s),
      congrArg _ (emitShifted_eq _ s), fun h => ?_, fun h4 h13 => ?_, fun h14 => ?_⟩⟩
  · exact h ▸ ⟨rfl, rfl⟩
  · exact ⟨basicChar_of_digit _ h4 h13, basicChar_of_digit _ h4 h13⟩
  · exact ⟨basicChar_of_letter _ h14, basicChar_of_letter _ h14⟩

/-- Settles O23: each unit is what its values decode to, and its rule raises on every state. -/
theorem valuesOutsideTheTablesRaise : Obligations.ValuesOutsideTheTablesRaise := by
  refine ⟨⟨decode_encode .cBasx rfl, decode_encode .tBasx rfl, decode_encode .xInv rfl⟩, fun c h => ?_, fun c h32 h40 => ?_,
    fun s c => ⟨rfl, rfl, rfl, rfl, rfl, rfl⟩⟩
  · have hwf : shift2Miss c = true := shift2Miss_iff.mpr (by omega)
    exact ⟨decode_encode (.cS2x c) hwf, decode_encode (.tS2x c) hwf⟩
  · exact decode_encode (.tS3x c) (inRange_iff.mpr ⟨h32, h40⟩)

/-- Settles O24: both units are `emitResolved` of the value. -/
theorem shiftOneEmitsTheValueItself : Obligations.ShiftOneEmitsTheValueItself := by
  intro c h
  have hwf : inRange 0 tripleMax c = true := inRange_iff.mpr ⟨Nat.zero_le _, h⟩
  exact ⟨decode_encode (.cS1 c) hwf, decode_encode (.tS1 c) hwf, fun s =>
    ⟨settle_emitResolved c.toNat s, settle_emitResolved c.toNat s⟩⟩

/-- Settles O25: both units read SHIFT2_TABLE, whose closed form is `punctuation`. -/
theorem shiftTwoEmitsPunctuation : Obligations.ShiftTwoEmitsPunctuation := by
  intro c h
  have hwf : inRange 0 26 c = true := inRange_iff.mpr ⟨Nat.zero_le _, h⟩
  have hch := shift2Table_getElem? h
  refine ⟨decode_encode (.cS2 c) hwf, decode_encode (.tS2 c) hwf, punctuation c.toNat, fun h14 => ?_, fun h15 h21 => ?_,
    fun h22 => ?_, fun s => ⟨settle_emitFromTable hch s, settle_emitFromTable hch s⟩⟩
  · rw [punctuation, if_pos h14]
  · rw [punctuation, if_neg (by omega), if_pos h21]
  · rw [punctuation, if_neg (by omega), if_neg (by omega)]

/-- Settles O26: the two special values of shift set 2 write the flags and FNC1 directly. -/
theorem shiftTwoSpecialsResolve : Obligations.ShiftTwoSpecialsResolve := by
  refine ⟨fun m => ?_, fun m => ?_, fun s => ⟨rfl, rfl, rfl, rfl⟩⟩
  · cases m
    · exact decode_encode .cS2f rfl
    · exact decode_encode .tS2f rfl
  · cases m
    · exact decode_encode .cS2u rfl
    · exact decode_encode .tS2u rfl

/-- Settles O27: `C.S3` is `emitResolved` of the value's character, `T.S3` reads its table, whose closed form is `textShift3Char`. -/
theorem shiftThreeOfTheTwoModes : Obligations.ShiftThreeOfTheTwoModes := by
  refine ⟨fun c h => ?_, fun c h => ?_⟩
  · exact ⟨decode_encode (.cS3 c) (inRange_iff.mpr ⟨Nat.zero_le _, h⟩), settle_emitResolved (c.toNat + 96)⟩
  · refine ⟨decode_encode (.tS3 c) (inRange_iff.mpr ⟨Nat.zero_le _, h⟩), textShift3Char c.toNat, fun h0 => ?_,
      fun h1 h26 => ?_, fun h27 => ?_, settle_emitFromTable (textShift3Table_getElem? h)⟩
    · rw [textShift3Char, if_pos h0]
    · rw [textShift3Char, if_neg (by omega), if_pos h26]
    · rw [textShift3Char, if_neg (by omega), if_neg (by omega)]

end

section
/-! PROOFS. The family 44_x12.md: the characters of the X12 values (R253 to R258). -/

open Sys2Proof Sys2Proof.Machine

/-- Settles O28: each unit is `Emit` of its character and nothing after it, so no flag is read or written (R260). -/
theorem x12ValuesEmitTheirCharacters : Obligations.X12ValuesEmitTheirCharacters := by
  refine ⟨⟨decode_encode .xCr rfl, decode_encode .xStar rfl, decode_encode .xGt rfl, decode_encode .xSp rfl⟩,
    fun s => ⟨settle_ok (emit 13 s), settle_ok (emit 42 s), settle_ok (emit 62 s), settle_ok (emit 32 s)⟩,
    fun c h4 h13 => ?digits, fun c h14 h39 => ?letters⟩
  case digits =>
    exact ⟨decode_encode (.xDig c) (inRange_iff.mpr ⟨h4, h13⟩), fun s => settle_ok (emit (c.toNat + 44) s)⟩
  case letters =>
    exact ⟨decode_encode (.xLet c) (inRange_iff.mpr ⟨h14, h39⟩), fun s => settle_ok (emit (c.toNat + upperLetters) s)⟩

end

section
/-! PROOFS. The family 45_sixbit.md: the characters of the Sixbit values (R272, R273), and the unlatch (R271). -/

namespace Sys2Proof.Machine

variable {s : State} {ph : Phase}

/-- `Emit(x)`, and the group goes on: two elements are written. -/
theorem nextPlace_emit (x : Nat) (hph : (nextPlace s).phase = ph) :
    nextPlace (emit x s) = { s with text := s.text ++ [BitVec.ofNat 16 x], phase := ph } := by
  subst hph
  unfold nextPlace
  rw [emit_phase]
  split <;> rfl

/-- Below 32 the bit that `E.LO` sets is not yet set, so setting it adds 64. -/
theorem exec_eLo {e : Val} (h : e.toNat < 32) (hph : (nextPlace s).phase = ph) :
    exec (.eLo e) s = .next { s with text := s.text ++ [BitVec.ofNat 16 (e.toNat + 64)], phase := ph } := by
  have hlow : sixbitLow e = e.toNat + 64 := by simpa using sixbitLow_eq h
  rw [exec, execELo, nextPlace_emit _ hph, hlow]

theorem exec_eHi (e : Val) (hph : (nextPlace s).phase = ph) :
    exec (.eHi e) s = .next { s with text := s.text ++ [BitVec.ofNat 16 e.toNat], phase := ph } := by
  rw [exec, execEHi, nextPlace_emit _ hph, sixbitHigh]

end Sys2Proof.Machine

open Sys2Proof Sys2Proof.Machine

/-- Settles O31: both units are `Emit` of their character and then `nextPlace`. -/
theorem sixbitValuesEmitTheirCharacters : Obligations.SixbitValuesEmitTheirCharacters := by
  refine ⟨fun e h => ⟨?_, fun s => exec_eLo (by omega) (nextPlace_phase s)⟩,
    fun e h => ⟨?_, fun s => exec_eHi e (nextPlace_phase s)⟩⟩
  · exact decode_encode (.eLo e) (inRange_iff.mpr ⟨Nat.zero_le _, h⟩)
  · exact decode_encode (.eHi e) (inRange_iff.mpr ⟨h, by omega⟩)

/-- Settles O32: the step that reads 31 is the unlatch after a read of six bits, and with SIXBIT_REALIGN = 0 the unlatch reads nothing. -/
theorem sixbitUnlatchConsumesSixBits : Obligations.SixbitUnlatchConsumesSixBits := by
  refine ⟨decode_encode .eUnl rfl, fun _ => rfl, fun s k hb hp hk h6 hm => ?_⟩
  obtain ⟨-, -, -, hsixbit, -⟩ := stepRunsTheDecodedUnit s .eUnl hb
  exact hsixbit k 31 _ hp hk (readBits_of_memRead h6 hm) (decode_encode .eUnl rfl)

end

section
/-! PROOFS. The family 46_rawbytes.md: the derandomizer and its inverse (R290 to R292), the lengths of the headers (R294 to R296), the data
bytes (R297, R301), and the end of the segment (R299, R300). -/

namespace Sys2Proof.Machine

variable {s : State}

/-! ## The derandomizer (R290 to R292) -/

theorem one_le_pseudoRandom (p : Nat) : 1 ≤ pseudoRandom p := Nat.succ_pos _

theorem pseudoRandom_le (p : Nat) : pseudoRandom p ≤ 255 := Nat.mod_lt (149 * p) (by decide)

theorem pseudoRandom_add_period (p : Nat) : pseudoRandom (p + 255) = pseudoRandom p := by
  rw [pseudoRandom, pseudoRandom, Nat.mul_add, Nat.add_mul_mod_self_right]

@[simp] theorem randomize_derandomize (w : Byte) (p : Nat) : randomize (derandomize w p) p = w := by
  rw [randomize_eq_add, derandomize_eq_sub, BitVec.sub_add_cancel]

theorem derandomize_toNat (w : Byte) (p : Nat) :
    (derandomize w p).toNat =
      if pseudoRandom p ≤ w.toNat then w.toNat - pseudoRandom p else w.toNat + 256 - pseudoRandom p := by
  have hr := pseudoRandom_le p
  have hpos := one_le_pseudoRandom p
  have hw := w.isLt
  rw [derandomize_eq_sub, BitVec.toNat_sub, toNat_ofNat8 (by omega)]
  split <;> omega

/-! ## The lengths (R294 to R296) -/

/-- A length that is a natural number begins the run. -/
theorem settle_startRun (k : Nat) (s : State) :
    settle (startRun k s) = .next { s with cnt := k, segbuf := [], phase := .rawData } :=
  congrArg settle (startRun_nonneg (Int.natCast_nonneg k) s)

/-! ## The counted run (R297 to R301) -/

theorem fetchData_of_memRead {w : Nat} (hc : s.segbuf.length < s.cnt) (h8 : 8 ≤ available s)
    (hm : memRead s.cw s.pos 8 = some w) :
    fetchData s =
      .ok (.unit (.bData (derandomize (BitVec.ofNat 8 w) s.p)) { s with pos := s.pos + 8, p := s.p + 1 }) := by
  rw [fetchData, if_neg (by omega), if_neg (by omega), readRaw_ok_iff.mpr ⟨h8, w, hm, rfl, rfl⟩, ok_bind]
  exact decoded_of_ok (decode_data _) _

theorem fetchData_of_full (h : s.cnt ≤ s.segbuf.length) :
    fetchData s = .ok (.quiet ((appendSegment s).returnTo .ascii)) :=
  if_pos h

/-- Latin-1 keeps a byte's number. -/
@[simp] theorem latin1_toNat (b : Byte) : (latin1 b).toNat = b.toNat := BitVec.toNat_setWidth_of_le (by decide)

theorem map_latin1_toNat (bs : List Byte) : (bs.map latin1).map BitVec.toNat = bs.map BitVec.toNat := by simp

end Sys2Proof.Machine

open Sys2Proof Sys2Proof.Machine

/-- Settles O7: modulo 256 the derandomizer subtracts what `RAND` adds, a number of 1 to 255. -/
theorem derandomizeInvertsRandomize : Obligations.DerandomizeInvertsRandomize :=
  ⟨fun p => ⟨rfl, one_le_pseudoRandom p, pseudoRandom_le p, pseudoRandom_add_period p⟩,
    fun x p => ⟨derandomize_randomize x p, randomize_derandomize x p⟩, derandomize_toNat⟩

/-- Settles O33: each header decodes to its unit, whose length passes the test of R298. -/
theorem rawBytesHeadersGiveTheLength : Obligations.RawBytesHeadersGiveTheLength := by
  refine ⟨decode_encode .bLen0 rfl, fun d1 h1 h249 => decode_encode (.bLen1 d1) (inRange_iff.mpr ⟨h1, h249⟩),
    fun d1 d2 h => decode_header2 h, fun s => ⟨settle_startRun (available s / 8) s, fun d1 => settle_startRun d1.toNat s,
      fun d1 d2 h => ?_⟩⟩
  rw [exec_bLen2 d2 h, longLength_toNat d2 h]

/-- Settles O34: inside the run the fetch delivers the derandomized byte as `B.DATA`, on the state with POS and P moved on. -/
theorem rawBytesDataJoinsTheSegment : Obligations.RawBytesDataJoinsTheSegment := by
  refine ⟨fun b => ⟨decode_data b, exec_bData b⟩, fun s w hb hp hc h8 hm => ?_⟩
  have hf := (fetch_rawData hp).trans (fetchData_of_memRead hc h8 hm)
  rw [step_of_unit hb hf, exec_bData]

/-- Settles O35: at the count the step is `appendSegment` and the return to ASCII. -/
theorem rawBytesSegmentIsAppendedWhole : Obligations.RawBytesSegmentIsAppendedWhole := by
  intro s hb hp hfull
  exact ⟨s.segbuf.map latin1, map_latin1_toNat s.segbuf,
    step_of_quiet hb ((fetch_rawData hp).trans (fetchData_of_full hfull.ge))⟩

end

section
/-! PROOFS. The family 47_result.md: when the result is readable and what it shows (R320 to R325), and that RES.raw is the supplied buffer
(R323). -/

namespace Sys2Proof.Machine

variable {s t : State} {r : Result}

/-! ## The result assembler (R320 to R325) -/

theorem readResult_eq_some_iff : readResult s = some r ↔ s.run = .done ∧ resultOf s = r := by
  rw [readResult, Option.ite_none_right_eq_some, Option.some.injEq]

theorem readResult_of_done (h : s.run = .done) : readResult s = some (resultOf s) := if_pos h

theorem readResult_of_ne_done (h : s.run ≠ .done) : readResult s = none := if_neg h

theorem segmentsOut_eq_none_iff {segs : List (List Byte)} : segmentsOut segs = none ↔ segs = [] := by
  cases segs <;> simp [segmentsOut]

theorem segmentsOut_of_ne_nil {segs : List (List Byte)} (h : segs ≠ []) : segmentsOut segs = some segs := by
  cases segs with
  | nil => exact absurd rfl h
  | cons _ _ => rfl

/-! ## RES.raw is the buffer (R323) -/

/-- CW holds the bytes `bs`, and a machine in DONE has them as RES.raw. -/
def Presents (bs : List Byte) (s : State) : Prop := s.cw.bytes = bs ∧ (s.run = .done → s.raw = bs)

/-- A busy machine reaches DONE only at the exit of the loop, which copies CW. -/
theorem Stepped.raw_of_done (hb : s.run = .busy) (h : Stepped s (.next t)) (hd : t.run = .done) :
    t.raw = s.cw.bytes := by
  have hne : s.run ≠ .done := by simp [hb]
  cases h
  case loopEnd => exact complete_raw s
  case short | asciiRaise | pairRaise => cases hd
  case pair ht => obtain ⟨v, c, l, sh, u, -, -, rfl⟩ := ht; exact absurd hd hne
  all_goals exact absurd hd hne

theorem step_keeps_presents {bs : List Byte} (hs : Presents bs s) (h : step s = .next t) : Presents bs t := by
  obtain ⟨-, rfl⟩ | ⟨hb, hst⟩ := step_next_cases h
  · exact hs
  · obtain ⟨hcw, -⟩ := hst.sameBuffer
    obtain ⟨hbytes, -⟩ := hs
    exact ⟨hcw ▸ hbytes, fun hd => (hst.raw_of_done hb hd).trans hbytes⟩

theorem invoked_presents (bs : List Byte) (s : State) : Presents bs (invoked bs s) := ⟨bytes_ofBytes bs, nofun⟩

end Sys2Proof.Machine

open Sys2Proof Sys2Proof.Machine

/-- Settles O49: a launched machine presents its buffer, and every step keeps it so, whichever way the loop ends. -/
theorem resultReturnsTheSuppliedBuffer : Obligations.ResultReturnsTheSuppliedBuffer := by
  intro bs s t k r h hr
  obtain ⟨hd, rfl⟩ := readResult_eq_some_iff.mp hr
  obtain ⟨-, hraw⟩ : Presents bs t := steps_keep (fun _ _ => step_keeps_presents) (invoked_presents bs s) h
  exact hraw hd

/-- Settles O48: the result is `resultOf`, SEGS goes through `segmentsOut`, and "absent" is the only value SA has. -/
theorem resultIsReadableOnlyWhenDone : Obligations.ResultIsReadableOnlyWhenDone :=
  fun s => ⟨readResult_of_ne_done, fun hd =>
    ⟨resultOf s, readResult_of_done hd, rfl, rfl, structuredAppend_eq _ _, segmentsOut_eq_none_iff, segmentsOut_of_ne_nil⟩⟩

end

section
/-! PROOFS. The family 60_exceptions.md: a raise records its cause, keeps the buffer and the segments, and ends the invocation (R356, R357,
R367), and two of the errors are never raised (R351, R361). -/

namespace Sys2Proof.Machine

variable {s t : State}

/-! ## A machine that has stopped -/

/-- A machine that is not busy stays as it is, however many steps it takes. -/
theorem steps_of_not_busy (h : s.run ≠ .busy) (k : Nat) : steps k s = .next s := by
  induction k with
  | zero => rfl
  | succ k ih => rw [steps_succ_of_next (step_of_not_busy h), ih]

theorem Finished.not_busy (h : Finished s) : s.run ≠ .busy := by
  obtain hd | he := h
  · simp [hd]
  · simp [he]

/-! ## A step that raises -/

/-- The step that appends a segment does not raise, so a raise leaves SEGS. -/
theorem Stepped.segs_of_error (hb : s.run = .busy) (h : Stepped s (.next t)) (he : t.run = .error) :
    t.segs = s.segs := by
  cases h
  case segment =>
    have hne : s.run ≠ .error := by simp [hb]
    exact absurd he hne
  case short r _ hr => obtain rfl | ⟨-, p, x, y, rfl, -⟩ := hr <;> rfl
  case pair ht | pairRaise ht _ => obtain ⟨v, c, l, sh, u, -, -, rfl⟩ := ht; rfl
  all_goals rfl

/-- A busy machine that ends in ERROR has recorded a Format Error with its cause. -/
theorem Stepped.err_of_error (hb : s.run = .busy) (h : Stepped s (.next t)) (he : t.run = .error) :
    ∃ c, t.err = ⟨.format, some c⟩ := by
  obtain ⟨hr, -⟩ | ⟨hr, -⟩ | ⟨-, c, -, e⟩ := h.run_cases hb
  · simp [hr] at he
  · simp [hr] at he
  · exact ⟨c, e⟩

/-- A step leaves ERR, or it records a Format Error with a cause other than `B256_LENGTH`. -/
theorem step_err_cases (h : step s = .next t) :
    t.err = s.err ∨ ∃ c, c ≠ .b256Length ∧ t.err = ⟨.format, some c⟩ := by
  obtain ⟨-, rfl⟩ | ⟨hb, hst⟩ := step_next_cases h
  · exact .inl rfl
  · obtain ⟨-, e⟩ | ⟨-, e⟩ | ⟨-, hc⟩ := hst.run_cases hb
    · exact .inl e
    · exact .inl e
    · exact .inr hc

end Sys2Proof.Machine

open Sys2Proof Sys2Proof.Machine

/-- Settles O41: the step that ends in ERROR is a raise, which writes neither the buffer nor SEGS, and a machine in ERROR takes no
further step. -/
theorem abortRecordsItsCauseAndIsFinal : Obligations.AbortRecordsItsCauseAndIsFinal := by
  intro s t hb h he
  have hst : Stepped s (.next t) := h ▸ stepped hb
  have hdone : t.run ≠ .done := by simp [he]
  have hfin : Finished t := .inr he
  exact ⟨hst.err_of_error hb he, hst.sameBuffer, (hst.segs_of_error hb he).symm, readResult_of_ne_done hdone,
    steps_of_not_busy hfin.not_busy⟩

/-- Settles O42: what a step records is a Format Error, and its cause is never `B256_LENGTH`. -/
theorem twoErrorsAreNeverRaised : Obligations.TwoErrorsAreNeverRaised := by
  intro s t hkind hcause h
  obtain e | ⟨c, hc, e⟩ := step_err_cases h <;> rw [e]
  · exact ⟨hkind, hcause⟩
  · exact ⟨nofun, fun hsome => hc (Option.some.inj hsome)⟩

end

section
/-! PROOFS. The family 70_reset_and_hazards.md: what supply and launch write and when they are refused (R380, R381, R387), what the host
reads (R380), and that the outputs are stable until the next launch (R383). -/

namespace Sys2Proof.Machine

variable {s t : State}

/-! ## The host's two actions that write -/

theorem launch_of_supplied (hb : s.run ≠ .busy) (hs : s.supplied = true) : launch s = .next (launched s) :=
  launch_next_iff.mpr ⟨hb, hs, rfl⟩

theorem launch_of_busy (h : s.run = .busy) : launch s = .refused .hostWhileBusy := if_pos h

theorem supply_of_busy (h : s.run = .busy) (bs : List Byte) : supply bs s = .refused .hostWhileBusy := if_pos h

/-! ## What the host reads -/

theorem status_err_of_error (h : s.run = .error) : (status s).err = some s.err := if_pos h

theorem status_err_of_ne_error (h : s.run ≠ .error) : (status s).err = none := if_neg h

theorem readCw_of_busy (h : s.run = .busy) : readCw s = none := by rw [readCw, h]

theorem readCw_of_idle (h : s.run = .idle) : readCw s = none := by rw [readCw, h]

/-- A supply writes nothing that `status` reads. -/
theorem status_loadBuffer (bs : List Byte) (s : State) : status (loadBuffer bs s) = status s := status_congr rfl rfl

/-- A supply writes nothing that `read result` reads: RES.raw is a copy. -/
theorem readResult_loadBuffer (bs : List Byte) (s : State) : readResult (loadBuffer bs s) = readResult s :=
  readResult_congr rfl rfl rfl rfl rfl

end Sys2Proof.Machine

open Sys2Proof Sys2Proof.Machine

/-- Settles O59: the ended statuses read the bytes of CW, which stand at the indices `0 .. N-1` of a filled buffer. -/
theorem statusAndReadCwAnswerAsTheTableSays : Obligations.StatusAndReadCwAnswerAsTheTableSays :=
  fun s => ⟨⟨rfl, status_err_of_error, status_err_of_ne_error⟩, readCw_of_busy, readCw_of_idle,
    fun hfin hfill => ⟨s.cw.bytes, readCw_of_finished hfin, hfill.length_bytes, hfill.read_eq_bytes⟩⟩

/-- Settles O45, by induction on the number of steps (`steps_of_not_busy`). -/
theorem nothingHappensUnlessBusy : Obligations.NothingHappensUnlessBusy :=
  fun _ k h => steps_of_not_busy h k

/-- Settles O46: `launched` writes the launch values and nothing else. -/
theorem launchSetsTheLaunchValues : Obligations.LaunchSetsTheLaunchValues :=
  fun _ => ⟨launch_of_supplied, fun hb => ⟨launch_of_busy hb, supply_of_busy hb⟩⟩

/-- Settles O47: an accepted supply is `loadBuffer`, and the buffer it makes lists the bytes from index 0 on. -/
theorem supplyPlacesTheBytes : Obligations.SupplyPlacesTheBytes := by
  intro bs s t h
  obtain ⟨hb, -, rfl⟩ := supply_next_iff.mp h
  exact ⟨hb, rfl, read_ofBytes bs, ofBytes_wf bs, rfl⟩

/-- Settles O60: a step of an ended machine changes nothing, and a supply writes only what no output shows. -/
theorem outputsStayUntilTheNextLaunch : Obligations.OutputsStayUntilTheNextLaunch := by
  rintro s t hfin (h | ⟨bs, h⟩)
  · obtain ⟨-, rfl⟩ | ⟨hb, -⟩ := step_next_cases h
    · exact ⟨rfl, rfl⟩
    · exact absurd hb hfin.not_busy
  · obtain ⟨-, -, rfl⟩ := supply_next_iff.mp h
    exact ⟨status_loadBuffer bs s, readResult_loadBuffer bs s⟩

end
